-- ==== Sys2Proof/Word.lean ====
section
/-! DEFINITION. The word types of LAPU-128: bytes, the 64-bit halves of a complex number, the complex
value of two halves, and the 128-bit instruction word (00_scope R10, R14; 10_state R23). -/

namespace Sys2Proof

/-- One byte of a byte image (20_memory R45, R46). -/
abbrev Byte := BitVec 8

/-- One half of a complex value: a 64-bit Q32.32 two's-complement number (40 R90). -/
abbrev Half := BitVec 64

/-- One instruction: exactly one 128-bit word (30_encoding R60). -/
abbrev InstrWord := BitVec 128

/-- A complex value of two Q32.32 halves, 128 bits in all (00_scope R14). Its 128-bit form, the
imaginary half above the real half, is 10_state R23. -/
structure Cplx where
  re : Half
  im : Half
deriving DecidableEq, Repr, Inhabited

/-- `ZERO128`, complex zero (00_scope R14). -/
def Cplx.zero : Cplx := ⟨0#64, 0#64⟩

/-- `ONE64`, the half that holds the number one (40 R90). -/
def one64 : Half := 0x0000000100000000#64

/-- `MAX64`, the most positive half (40 R90). -/
def max64 : Half := 0x7FFFFFFFFFFFFFFF#64

/-- `MIN64`, the most negative half (40 R90). -/
def min64 : Half := 0x8000000000000000#64

end Sys2Proof
end

