-- ==== Sys2Proof/Config.lean ====
section
/-! DEFINITION. The parameters of one LAPU-128 build (00_scope R6 to R9) and the free values of the
model: opaque constants about which nothing can be proved. -/

namespace Sys2Proof

/-- `FRAC_ROUND` (00_scope R9, 40 R95, U7): how fraction bits below 2^-32 are discarded. -/
inductive FracRound where
  | floor
  | towardZero
deriving DecidableEq, Repr

/-- `OVF_TRUNC` (00_scope R9, 40 R93, U8): what "truncating" does with a result outside 64 bits. -/
inductive OvfTrunc where
  | wrap
  | saturate
deriving DecidableEq, Repr

/-- `OVF_UNSPEC` (00_scope R9, 40 R94, U5): overflow where the sources say nothing. `anyValue` is the
strict treatment of R94 and U5, an unconstrained half whenever the exact result is out of range. -/
inductive OvfUnspec where
  | wrap
  | saturate
  | anyValue
deriving DecidableEq, Repr

/-- `IAMAX_FORMAT` and `BOOL_FORMAT` (00_scope R9, U9, U17): an integer result is written either as a
Q32.32 number or as the raw integer. -/
inductive NumFormat where
  | q32_32
  | raw
deriving DecidableEq, Repr

/-- The parameters fixed when the hardware is built (00_scope R6, R7, R9). No step changes them
(R6: "constant at runtime"). They stand in State so that every statement holds for every build
(log 1). -/
structure Config where
  /-- `VLEN`, the number of elements of a vector register (R6). -/
  vlen : Nat
  /-- `N`, the bank side in units of `VLEN` (R7). -/
  n : Nat
  /-- `IMEM_WORDS`, the capacity of instruction memory in words (R9). -/
  imemWords : Nat
  /-- `D1EXT` (R2, R9): the instructions of 48_secondary_only and the `len16` field are present. -/
  d1ext : Bool
  fracRound : FracRound
  ovfTrunc : OvfTrunc
  ovfUnspec : OvfUnspec
  /-- `SQRT_EXACT` (R9, U6): `csqrt` and `cabs` give the exactly truncated result. -/
  sqrtExact : Bool
  /-- `IAMAX_FORMAT` (R9, 43 R142). -/
  iamaxFormat : NumFormat
  /-- `MBZ_IGNORED` (R9, 30 R80, U2): nonzero must-be-zero bits are ignored. -/
  mbzIgnored : Bool
  /-- `BOOL_FORMAT` (R9, 48 R221). -/
  boolFormat : NumFormat
deriving DecidableEq, Repr

/-- `SIDE = N * VLEN`, the rows and the columns of every bank (00_scope R7). -/
def Config.side (c : Config) : Nat := c.n * c.vlen

/-- The bounds the spec puts on the parameters: `VLEN >= 1` (R6), `N >= 2` and `SIDE <= 65536` (R7),
`1 <= IMEM_WORDS <= 2^32` (R9). -/
abbrev Config.Wf (c : Config) : Prop :=
  1 ≤ c.vlen ∧ 2 ≤ c.n ∧ c.side ≤ 65536 ∧ 1 ≤ c.imemWords ∧ c.imemWords ≤ 2 ^ 32

/-- The build that `State.reset` has: every switch at the value the spec decides for LAPU-128 (R9).
`VLEN`, `N` and `IMEM_WORDS` are OPEN in the spec; 4, 2 and 2^32 are DESIGN CHOICE (log 1). -/
def Config.decided : Config where
  vlen := 4
  n := 2
  imemWords := 2 ^ 32
  d1ext := false
  fracRound := .floor
  ovfTrunc := .wrap
  ovfUnspec := .wrap
  sqrtExact := true
  iamaxFormat := .q32_32
  mbzIgnored := false
  boolFormat := .q32_32

/-- The same build with the profile `D1EXT` selected (R2). -/
def Config.withD1Ext (c : Config) : Config := { c with d1ext := true }

/-- The five storages a byte can lie in: the four matrix banks and instruction memory
(20_memory R40, R41). -/
inductive Space where
  | bank (b : Fin 4)
  | imem
deriving DecidableEq, Repr

/-- FREE VALUE: what a byte of a storage reads as while nothing has written it since reset
(10_state R35, U12). One unconstrained value for each place, so that reading twice gives the same
(20_memory R52). Log 6. -/
opaque Config.unwrittenByte : Space → Nat → Byte

/-- FREE VALUE: the `slot`-th unconstrained half that the instruction numbered `count` draws
(U5, U11: "an unconstrained value of the stated type, chosen afresh each time"). Log 3, log 17. -/
opaque Config.freeHalf (count slot : Nat) : Half

/-- FREE VALUE: the unconstrained last-place error of a square root under `SQRT_EXACT = false`
(U6); 0, 1 and 2 stand for one unit below, exact and one unit above. Log 4. -/
opaque Config.freeUlp (count slot : Nat) : Fin 3

end Sys2Proof
end

