-- ==== Sys2Proof/Machine/FixedPoint.lean ====
section
/-! DEFINITION. Fixed-point complex arithmetic (40 R90 to R109): exact integers, one rounding and one
range reduction per half. -/

namespace Sys2Proof.Machine

/-! ### Scalar primitives on integers (40 R90 to R97) -/

/-- `qext(h) = S(h)`, the integer of a half (40 R90). -/
def qext (h : Half) : Int := h.toInt

/-- `wrap64` (40 R91): the low 64 bits of the two's-complement representation. -/
def wrap64 (n : Int) : Half := BitVec.ofInt 64 n

/-- The integers a half can hold (40 R90). -/
abbrev InRange (n : Int) : Prop := -2 ^ 63 ≤ n ∧ n ≤ 2 ^ 63 - 1

/-- `sat64` (40 R92): "Saturating" and "clamp". -/
def sat64 (n : Int) : Half := wrap64 (min (max n (-2 ^ 63)) (2 ^ 63 - 1))

/-- `ovf_trunc` (40 R93). -/
def ovfTrunc (c : Config) (n : Int) : Half :=
  match c.ovfTrunc with
  | .wrap => wrap64 n
  | .saturate => sat64 n

/-- `ovf_unspec` (40 R94, U5) with the free value `free` for a result out of range under the strict
treatment: "only that half, only when the exact result is out of range". -/
def ovfUnspec (c : Config) (free : Half) (n : Int) : Half :=
  match c.ovfUnspec with
  | .wrap => wrap64 n
  | .saturate => sat64 n
  | .anyValue => if InRange n then wrap64 n else free

/-- `rdiv(n, d)` for `d > 0` (40 R95): the fraction is discarded by `FRAC_ROUND`. -/
def rdiv (c : Config) (n d : Int) : Int :=
  match c.fracRound with
  | .floor => n / d
  | .towardZero => n.tdiv d

/-- `shr32` (40 R96). -/
def shr32 (c : Config) (n : Int) : Int := rdiv c n (2 ^ 32)

/-- The bits of `isqrt`, from bit `k - 1` down: the greatest `r' >= r` reachable with
`r' * r' <= n`. -/
def isqrtFrom (n : Nat) : Nat → Nat → Nat
  | 0, r => r
  | k + 1, r => isqrtFrom n k (if (r + 2 ^ k) * (r + 2 ^ k) ≤ n then r + 2 ^ k else r)

/-- `isqrt(n)` (40 R97): the greatest `r` with `r * r <= n`. -/
def isqrt (n : Nat) : Nat := isqrtFrom n (n.log2 / 2 + 1) 0

/-- `isqrt_exact(n)` (40 R97). -/
def isqrtExact (n : Nat) : Bool := decide (isqrt n * isqrt n = n)

/-! ### Overflow handlers -/

/-- Which half of a complex result. -/
inductive Part where
  | re
  | im
deriving DecidableEq, Repr

/-- An overflow handler: what becomes of the exact integer of a half (40 section 3). -/
abbrev Handler := Part → Int → Half

/-- `wrap64` as a handler. -/
def wrapH : Handler := fun _ => wrap64
/-- `sat64` as a handler (40 R107: each half on its own). -/
def satH : Handler := fun _ => sat64
/-- `ovf_trunc` as a handler. -/
def truncH (c : Config) : Handler := fun _ => ovfTrunc c

/-- The free half that the instruction numbered `count` may draw for one half of one lane
(log 3). -/
def freePart (count lane : Nat) : Part → Half
  | .re => Config.freeHalf count (2 * lane)
  | .im => Config.freeHalf count (2 * lane + 1)

/-- `ovf_unspec` as a handler for lane `lane` of the instruction numbered `count`. -/
def unspecH (c : Config) (count lane : Nat) : Handler := fun p => ovfUnspec c (freePart count lane p)

/-! ### Complex helper functions (40 R98 to R105) -/

/-- `c_neg` (40 R98). -/
def cNeg (a : Cplx) : Cplx := ⟨wrap64 (-qext a.re), wrap64 (-qext a.im)⟩

/-- `c_conj` (40 R99). -/
def cConj (a : Cplx) : Cplx := ⟨a.re, wrap64 (-qext a.im)⟩

/-- `c_add` (40 R100). -/
def cAdd (h : Handler) (a b : Cplx) : Cplx :=
  ⟨h .re (qext a.re + qext b.re), h .im (qext a.im + qext b.im)⟩

/-- `c_sub` (40 R100). -/
def cSub (h : Handler) (a b : Cplx) : Cplx :=
  ⟨h .re (qext a.re - qext b.re), h .im (qext a.im - qext b.im)⟩

/-- The exact real part of a product, a Q64.64 integer (40 R101). -/
def mulRe (a b : Cplx) : Int := qext a.re * qext b.re - qext a.im * qext b.im

/-- The exact imaginary part of a product, a Q64.64 integer (40 R101). -/
def mulIm (a b : Cplx) : Int := qext a.re * qext b.im + qext a.im * qext b.re

/-- `c_mul` (40 R101): one rounding per half, after the sum of products. -/
def cMul (c : Config) (h : Handler) (a b : Cplx) : Cplx :=
  ⟨h .re (shr32 c (mulRe a b)), h .im (shr32 c (mulIm a b))⟩

/-- `mag2` (40 R103). -/
def mag2 (a : Cplx) : Int := qext a.re * qext a.re + qext a.im * qext a.im

/-- `c_div` (40 R102): `(a conj(b)) / |b|^2`, and zero when `b` is zero. -/
def cDiv (c : Config) (h : Handler) (a b : Cplx) : Cplx :=
  if mag2 b = 0 then Cplx.zero
  else
    ⟨h .re (rdiv c ((qext a.re * qext b.re + qext a.im * qext b.im) * 2 ^ 32) (mag2 b)),
     h .im (rdiv c ((qext a.im * qext b.re - qext a.re * qext b.im) * 2 ^ 32) (mag2 b))⟩

/-- The complex number one (41 R118). -/
def one128 : Cplx := ⟨one64, 0#64⟩

/-- `T = isqrt(2^62 * mag2)` of the square root (40 R104). -/
def sqrtT (a : Cplx) : Nat := isqrt (2 ^ 62 * mag2 a).toNat

/-- `Pf`, the integer of the real half of the exact truncated root (40 R104). -/
def sqrtRe (a : Cplx) : Int := isqrt ((sqrtT a : Int) + 2 ^ 31 * qext a.re).toNat

/-- `A = T - 2^31 * x` (40 R104). -/
def sqrtA (a : Cplx) : Nat := ((sqrtT a : Int) - 2 ^ 31 * qext a.re).toNat

/-- `Qi`, the integer of the imaginary half of the exact truncated root (40 R104). -/
def sqrtIm (c : Config) (a : Cplx) : Int :=
  let qf : Int := isqrt (sqrtA a)
  if 0 ≤ qext a.im then qf
  else if c.fracRound = .towardZero
      ∨ (isqrtExact (2 ^ 62 * mag2 a).toNat && isqrtExact (sqrtA a)) = true then -qf
  else -(qf + 1)

/-- The integer of a square-root result (U6): exact under `SQRT_EXACT`; otherwise the exact one with
a free error of at most one unit, not below `low` where the spec keeps the half from being negative.
Log 4. -/
def rootResult (c : Config) (count slot : Nat) (low : Option Int) (n : Int) : Int :=
  if c.sqrtExact then n
  else
    let m := n + ((Config.freeUlp count slot).val : Int) - 1
    match low with
    | none => m
    | some l => max l m

/-- `c_sqrt` (40 R104, U6). -/
def cSqrt (c : Config) (count : Nat) (a : Cplx) : Cplx :=
  if a = Cplx.zero then Cplx.zero
  else
    ⟨wrap64 (rootResult c count 0 (some 0) (sqrtRe a)), wrap64 (rootResult c count 1 none (sqrtIm c a))⟩

/-- `r_sqrt_mag` (40 R105): the truncated magnitude. -/
def rSqrtMag (a : Cplx) : Int := isqrt (mag2 a).toNat

/-- The real half of `cabs` (41 R115, U6); "the result for a zero operand is exactly zero". -/
def cAbsRe (c : Config) (count : Nat) (a : Cplx) : Half :=
  if a = Cplx.zero then 0#64 else ovfTrunc c (rootResult c count 0 (some 0) (rSqrtMag a))

end Sys2Proof.Machine
end

