-- ==== Sys2Proof/Machine/Flags.lean ====
section
/-! DEFINITION. What stands in the place of flags. The machine has no status flags and no condition
codes (10_state R30); the conditions it computes are the predicate of `jrel` (46 R171), the comparisons
of magnitudes (40 R103) and the truth values that D1EXT comparisons write (48 R221). -/

namespace Sys2Proof.Machine

/-- The predicate of `jrel`: any of the 128 bits of `s1` is set (46 R171). -/
def predicateTrue (s1 : Cplx) : Bool := decide (s1 ≠ Cplx.zero)

/-- An integer written as a number in `NumFormat` (43 R142, 48 R221). -/
def numberHalf (f : NumFormat) (n : Int) : Half :=
  match f with
  | .q32_32 => wrap64 (n * 2 ^ 32)
  | .raw => wrap64 n

/-- The complex value a comparison writes (48 R221): one or zero in the real half. -/
def truthValue (c : Config) (t : Bool) : Cplx :=
  ⟨if t then numberHalf c.boolFormat 1 else 0#64, 0#64⟩

/-- The operand of larger magnitude, the first on a tie (48 R201). -/
def maxAbs (a b : Cplx) : Cplx := if mag2 b > mag2 a then b else a

/-- The operand of smaller magnitude, the first on a tie (48 R202). -/
def minAbs (a b : Cplx) : Cplx := if mag2 b < mag2 a then b else a

/-- The scan of `iamax` (43 R142) over the lanes from index `i` on, `best` being the index found so far
and `m` its squared magnitude: strict, so that ties keep the lower index. -/
def argmaxFrom : List Cplx → Nat → Nat → Int → Nat
  | [], _, best, _ => best
  | z :: zs, i, best, m =>
    if mag2 z > m then argmaxFrom zs (i + 1) i (mag2 z) else argmaxFrom zs (i + 1) best m

/-- `argmax_i |vA[i]|`, the lowest index on a tie (43 R142). -/
def argmax : List Cplx → Nat
  | [] => 0
  | z :: zs => argmaxFrom zs 1 0 (mag2 z)

end Sys2Proof.Machine
end

