-- ==== Sys2Proof/Syntax.lean ====
section
/-! DEFINITION. The instructions of LAPU-128, one constructor for each row of spec/opcode_table.json
(30_encoding R75 for the 34 of BASE, 48 R200 for the 12 of D1EXT). -/

namespace Sys2Proof

/-- A 3-bit field that names a scalar register `s0` to `s7` (10_state R20). -/
abbrev SReg := BitVec 3

/-- A 3-bit field that names a vector register `v0` to `v7` (10_state R25). -/
abbrev VReg := BitVec 3

/-- One half of `imm_90`: 45-bit Q22.23 (30_encoding R70). -/
abbrev Imm45 := BitVec 45

/-- The `rc` bit of `vld` and `vst`: "rc=0 means row, rc=1 means column" (30_encoding R73). -/
inductive Access where
  | row
  | column
deriving DecidableEq, Repr

/-- One instruction with its operand fields, in the order of the table's operand list
(30_encoding R68, R69, R73, R75; 48 R200, R209, R212, R223). -/
inductive Instr where
  -- R-type, mapping 00: scalar (41 R111 to R122)
  | cneg (rd rs1 : SReg)
  | conj (rd rs1 : SReg)
  | csqrt (rd rs1 : SReg)
  | cabs2 (rd rs1 : SReg)
  | cabs (rd rs1 : SReg)
  | creal (rd rs1 : SReg)
  | cimag (rd rs1 : SReg)
  | crecip (rd rs1 : SReg)
  | cadd (rd rs1 rs2 : SReg)
  | csub (rd rs1 rs2 : SReg)
  | cmul (rd rs1 rs2 : SReg)
  | cdiv (rd rs1 rs2 : SReg)
  -- R-type, mapping 01: lane-wise vector (42 R131 to R135)
  | vadd (rd rs1 rs2 : VReg)
  | vsub (rd rs1 rs2 : VReg)
  | vmul (rd rs1 rs2 : VReg)
  | vdiv (rd rs1 rs2 : VReg)
  | vconj (rd rs1 : VReg)
  -- R-type, mapping 10: reductions to a scalar (43 R141 to R143)
  | dotu (rd : SReg) (rs1 rs2 : VReg)
  | iamax (rd : SReg) (rs1 : VReg)
  | sum (rd : SReg) (rs1 : VReg)
  -- R-type, mapping 11: vector by scalar (44 R151 to R154)
  | vsadd (rd rs1 : VReg) (rs2 : SReg)
  | vssub (rd rs1 : VReg) (rs2 : SReg)
  | vsmul (rd rs1 : VReg) (rs2 : SReg)
  | vsdiv (rd rs1 : VReg) (rs2 : SReg)
  -- I-type (45 R161 to R165)
  | cloadi (rd : SReg) (re im : Imm45)
  | caddI (rd rs1 : SReg) (re im : Imm45)
  | cmulI (rd rs1 : SReg) (re im : Imm45)
  | csubI (rd rs1 : SReg) (re im : Imm45)
  | cdivI (rd rs1 : SReg) (re im : Imm45)
  -- J-type (46 R171)
  | jrel (offs33 : BitVec 33)
  -- S-type (47 R184 to R187); `len16` is 0 in BASE (48 R222, R223)
  | vld (rd : VReg) (mbid : BitVec 4) (rc : Access) (idx16 len16 : BitVec 16)
  | vst (rd : VReg) (mbid : BitVec 4) (rc : Access) (idx16 len16 : BitVec 16)
  | sldXy (rd : SReg) (mbid : BitVec 4) (x16 y16 : BitVec 16)
  | sstXy (rd : SReg) (mbid : BitVec 4) (x16 y16 : BitVec 16)
  -- D1EXT only (48 R201 to R212)
  | cmaxabs (rd rs1 rs2 : SReg)
  | cminabs (rd rs1 rs2 : SReg)
  | cmpltRe (rd rs1 rs2 : SReg)
  | cmpgtRe (rd rs1 rs2 : SReg)
  | cmpleRe (rd rs1 rs2 : SReg)
  | vmac (rd rs1 rs2 : VReg)
  | dotc (rd : SReg) (rs1 rs2 : VReg)
  | asum (rd : SReg) (rs1 : VReg)
  | vsload (rd : VReg) (rs2 : SReg) (lane : BitVec 16)
  | cmaxabsI (rd rs1 : SReg) (re im : Imm45)
  | cminabsI (rd rs1 : SReg) (re im : Imm45)
  | cscaleI (rd rs1 : SReg) (re : Imm45)
deriving DecidableEq, Repr

end Sys2Proof
end

