-- ==== Sys2Proof/WellFormed.lean ====
section
/-! DEFINITION. Which instruction terms are instructions of a build: the checks that decoding makes on
operands and on the profile (30_encoding R74, R81; 47 R182; 48 R209, R223). -/

namespace Sys2Proof

/-- The bank number names one of the four banks (47 R182, "values 0 to 3 name banks 0 to 3"). -/
def bankExists (mbid : BitVec 4) : Bool := decide (mbid.toNat < 4)

/-- `len16` is an operand only under `D1EXT` (else those bits must be zero, 30 R81), and at most
`VLEN` (48 R223). -/
def lengthAllowed (c : Config) (len16 : BitVec 16) : Bool :=
  (c.d1ext || decide (len16 = 0#16)) && decide (len16.toNat ≤ c.vlen)

/-- An instruction of the build `c`: what decoding under `c` can give. -/
def wellFormed (c : Config) : Instr → Bool
  | .cneg _ _ => true
  | .conj _ _ => true
  | .csqrt _ _ => true
  | .cabs2 _ _ => true
  | .cabs _ _ => true
  | .creal _ _ => true
  | .cimag _ _ => true
  | .crecip _ _ => true
  | .cadd _ _ _ => true
  | .csub _ _ _ => true
  | .cmul _ _ _ => true
  | .cdiv _ _ _ => true
  | .vadd _ _ _ => true
  | .vsub _ _ _ => true
  | .vmul _ _ _ => true
  | .vdiv _ _ _ => true
  | .vconj _ _ => true
  | .dotu _ _ _ => true
  | .iamax _ _ => true
  | .sum _ _ => true
  | .vsadd _ _ _ => true
  | .vssub _ _ _ => true
  | .vsmul _ _ _ => true
  | .vsdiv _ _ _ => true
  | .cloadi _ _ _ => true
  | .caddI _ _ _ _ => true
  | .cmulI _ _ _ _ => true
  | .csubI _ _ _ _ => true
  | .cdivI _ _ _ _ => true
  | .jrel _ => true
  | .vld _ mbid _ _ len16 => bankExists mbid && lengthAllowed c len16
  | .vst _ mbid _ _ len16 => bankExists mbid && lengthAllowed c len16
  | .sldXy _ mbid _ _ => bankExists mbid
  | .sstXy _ mbid _ _ => bankExists mbid
  | .cmaxabs _ _ _ => c.d1ext
  | .cminabs _ _ _ => c.d1ext
  | .cmpltRe _ _ _ => c.d1ext
  | .cmpgtRe _ _ _ => c.d1ext
  | .cmpleRe _ _ _ => c.d1ext
  | .vmac _ _ _ => c.d1ext
  | .dotc _ _ _ => c.d1ext
  | .asum _ _ => c.d1ext
  | .vsload _ _ lane => c.d1ext && decide (lane.toNat < c.vlen)
  | .cmaxabsI _ _ _ _ => c.d1ext
  | .cminabsI _ _ _ _ => c.d1ext
  | .cscaleI _ _ _ => c.d1ext

end Sys2Proof
end

