-- ==== Sys2Proof/Decode.lean ====
section
/-! DEFINITION. Decoding of the 128-bit instruction word (30_encoding R60 to R83, R89; 47 R182; 48 R200
to R223), total and rejecting by name, and after it the encoder written from the same format tables. -/

namespace Sys2Proof

/-- Why a word is no instruction of the build. Each reason makes the machine raise
`IllegalInstruction` (60 R232), except `short`, which no fetch can meet (a fetch reads a whole word,
20_memory R42). -/
inductive DecodeError where
  /-- Opcode 0x00 or 0x05 to 0xFF (30 R76). -/
  | reservedOpcode
  /-- A subop, or a pair of mapping and subop, that names no instruction (30 R77, R81, R89). -/
  | reservedSubop
  /-- A nonzero must-be-zero bit, or `jrel` with `rs1` other than 001 (30 R78, R80). -/
  | mustBeZero
  /-- `mbid` 4 to 15 (47 R182). -/
  | noSuchBank
  /-- `vsload` with a lane index not below `VLEN` (48 R209). -/
  | noSuchLane
  /-- `len16` above `VLEN` (48 R223). -/
  | lengthTooLong
  /-- Fewer than 16 bytes were given. -/
  | short
deriving DecidableEq, Repr

/-! ### Fields of the word (30 R61 to R66, R70, R72, R73; 48 R222) -/

/-- `I[127:120]` (30 R61). -/
def opcodeOf (w : InstrWord) : BitVec 8 := w.extractLsb' 120 8
/-- `I[119:112]` (30 R61). -/
def subopOf (w : InstrWord) : BitVec 8 := w.extractLsb' 112 8
/-- `flags = I[111:96]` (30 R61, R63). -/
def flagsOf (w : InstrWord) : BitVec 16 := w.extractLsb' 96 16
/-- The mapping selector `I[97:96]` of R-type (30 R63, R69). -/
def mappingOf (w : InstrWord) : BitVec 2 := w.extractLsb' 96 2
/-- The flag bits of R-type above the selector, `I[111:98]` (30 R62). -/
def flagsHighOf (w : InstrWord) : BitVec 14 := w.extractLsb' 98 14
/-- `rd = I[95:93]` (30 R62, R64, R66); in J-type these bits are `rs1` (30 R65). -/
def rdOf (w : InstrWord) : BitVec 3 := w.extractLsb' 93 3
/-- `rs1 = I[92:90]` (30 R62, R64). -/
def rs1Of (w : InstrWord) : BitVec 3 := w.extractLsb' 90 3
/-- `rs2 = I[89:87]` (30 R62). -/
def rs2Of (w : InstrWord) : BitVec 3 := w.extractLsb' 87 3
/-- `imm16 = I[86:71]` (30 R62). -/
def imm16Of (w : InstrWord) : BitVec 16 := w.extractLsb' 71 16
/-- `reserved = I[70:0]` of R-type (30 R62). -/
def reservedROf (w : InstrWord) : BitVec 71 := w.extractLsb' 0 71
/-- The real half of the immediate, `I[89:45]` (30 R70). -/
def immReOf (w : InstrWord) : Imm45 := w.extractLsb' 45 45
/-- The imaginary half of the immediate, `I[44:0]` (30 R70). -/
def immImOf (w : InstrWord) : Imm45 := w.extractLsb' 0 45
/-- `offs33 = I[92:60]` (30 R65, R72). -/
def offs33Of (w : InstrWord) : BitVec 33 := w.extractLsb' 60 33
/-- `reserved = I[59:0]` of J-type (30 R65). -/
def reservedJOf (w : InstrWord) : BitVec 60 := w.extractLsb' 0 60
/-- `rc = I[111]` (30 R63, R73). -/
def rcOf (w : InstrWord) : BitVec 1 := w.extractLsb' 111 1
/-- `FLAGS16[110:96]` of S-type (30 R66). -/
def flagsLowOf (w : InstrWord) : BitVec 15 := w.extractLsb' 96 15
/-- `mbid = I[92:89]` (30 R66). -/
def mbidOf (w : InstrWord) : BitVec 4 := w.extractLsb' 89 4
/-- `i16 = I[88:73]` (30 R66). -/
def i16Of (w : InstrWord) : BitVec 16 := w.extractLsb' 73 16
/-- `j16 = I[72:57]` (30 R66). -/
def j16Of (w : InstrWord) : BitVec 16 := w.extractLsb' 57 16
/-- `len16 = I[56:41]` under `D1EXT` (48 R222). -/
def len16Of (w : InstrWord) : BitVec 16 := w.extractLsb' 41 16
/-- `I[40:0]`, reserved in S-type under both profiles (30 R66, 48 R222). -/
def reservedSOf (w : InstrWord) : BitVec 41 := w.extractLsb' 0 41

/-- "rc=0 means row, rc=1 means column" (30 R73). -/
def accessOf (w : InstrWord) : Access := if rcOf w = 0#1 then .row else .column

/-- The bit that stands for an access direction (30 R73). -/
def rcBit : Access → BitVec 1
  | .row => 0#1
  | .column => 1#1

/-! ### Must-be-zero and must-be-constant bits (30 R78) -/

/-- R-type: `flags[111:98]`, `imm16` and `reserved` are zero. -/
def unusedR (w : InstrWord) : Bool :=
  decide (flagsHighOf w = 0#14) && decide (imm16Of w = 0#16) && decide (reservedROf w = 0#71)

/-- R-type unary: as binary, and `rs2` is zero. -/
def unusedRs2 (w : InstrWord) : Bool := unusedR w && decide (rs2Of w = 0#3)

/-- `vsload` (48 R209): as binary, but `imm16` is the lane index, and `rs1` is zero. -/
def unusedVsload (w : InstrWord) : Bool :=
  decide (flagsHighOf w = 0#14) && decide (rs1Of w = 0#3) && decide (reservedROf w = 0#71)

/-- I-type: `flags` is zero. -/
def unusedI (w : InstrWord) : Bool := decide (flagsOf w = 0#16)

/-- `jrel`: `flags16` and `reserved` are zero and `rs1`, bits 95:93, is 001. -/
def unusedJ (w : InstrWord) : Bool :=
  decide (flagsOf w = 0#16) && decide (rdOf w = 1#3) && decide (reservedJOf w = 0#60)

/-- `vld`, `vst`: `FLAGS16[110:96]`, `j16` and `rsv` are zero; bits 56:41 belong to `rsv` unless
`D1EXT` makes them `len16` (30 R81, 48 R222). -/
def unusedVector (c : Config) (w : InstrWord) : Bool :=
  decide (flagsLowOf w = 0#15) && decide (j16Of w = 0#16) && decide (reservedSOf w = 0#41)
    && (c.d1ext || decide (len16Of w = 0#16))

/-- `sld.xy`, `sst.xy`: `FLAGS16` with bit 111, and `rsv` with bits 56:41, are zero. -/
def unusedScalar (w : InstrWord) : Bool :=
  decide (flagsOf w = 0#16) && decide (len16Of w = 0#16) && decide (reservedSOf w = 0#41)

/-! ### The decoder (30 R74) -/

/-- A defined instruction whose must-be-zero bits hold, or any with `MBZ_IGNORED` (30 R80, U2). -/
def needs (c : Config) (ok : Bool) (i : Instr) : Except DecodeError Instr :=
  if ok || c.mbzIgnored then .ok i else .error .mustBeZero

/-- An encoding that only `D1EXT` defines (30 R81). -/
def onlyD1Ext (c : Config) (r : Except DecodeError Instr) : Except DecodeError Instr :=
  if c.d1ext then r else .error .reservedSubop

/-- The decode of a `vsload` word, whose lane index must lie in the vector (48 R209).
DESIGN CHOICE, unsafe (log 21): R209's operand encoding is decided, not sourced, and it advises against
admitting `vsload` without evidence from the implementation; the model admits it under `D1EXT`. -/
def laneChecked (c : Config) (w : InstrWord) : Except DecodeError Instr :=
  if !(unusedVsload w || c.mbzIgnored) then .error .mustBeZero
  else if (imm16Of w).toNat < c.vlen then .ok (.vsload (rdOf w) (rs2Of w) (imm16Of w))
  else .error .noSuchLane

/-- R-type by mapping and subop (30 R75, R77, R89; 48 R200). -/
def decodeR (c : Config) (w : InstrWord) : Except DecodeError Instr :=
  match (mappingOf w).toNat, (subopOf w).toNat with
  | 0, 0x00 => needs c (unusedRs2 w) (.cneg (rdOf w) (rs1Of w))
  | 0, 0x01 => needs c (unusedRs2 w) (.conj (rdOf w) (rs1Of w))
  | 0, 0x02 => needs c (unusedRs2 w) (.csqrt (rdOf w) (rs1Of w))
  | 0, 0x03 => needs c (unusedRs2 w) (.cabs2 (rdOf w) (rs1Of w))
  | 0, 0x04 => needs c (unusedRs2 w) (.cabs (rdOf w) (rs1Of w))
  | 0, 0x05 => needs c (unusedRs2 w) (.creal (rdOf w) (rs1Of w))
  | 0, 0x06 => needs c (unusedRs2 w) (.cimag (rdOf w) (rs1Of w))
  | 0, 0x07 => needs c (unusedRs2 w) (.crecip (rdOf w) (rs1Of w))
  | 0, 0x08 => needs c (unusedR w) (.cadd (rdOf w) (rs1Of w) (rs2Of w))
  | 0, 0x09 => needs c (unusedR w) (.csub (rdOf w) (rs1Of w) (rs2Of w))
  | 0, 0x0A => needs c (unusedR w) (.cmul (rdOf w) (rs1Of w) (rs2Of w))
  | 0, 0x0B => needs c (unusedR w) (.cdiv (rdOf w) (rs1Of w) (rs2Of w))
  | 0, 0x0C => onlyD1Ext c (needs c (unusedR w) (.cmaxabs (rdOf w) (rs1Of w) (rs2Of w)))
  | 0, 0x0D => onlyD1Ext c (needs c (unusedR w) (.cminabs (rdOf w) (rs1Of w) (rs2Of w)))
  | 0, 0x0E => onlyD1Ext c (needs c (unusedR w) (.cmpltRe (rdOf w) (rs1Of w) (rs2Of w)))
  | 0, 0x0F => onlyD1Ext c (needs c (unusedR w) (.cmpgtRe (rdOf w) (rs1Of w) (rs2Of w)))
  | 0, 0x10 => onlyD1Ext c (needs c (unusedR w) (.cmpleRe (rdOf w) (rs1Of w) (rs2Of w)))
  | 1, 0x00 => needs c (unusedR w) (.vadd (rdOf w) (rs1Of w) (rs2Of w))
  | 1, 0x01 => needs c (unusedR w) (.vsub (rdOf w) (rs1Of w) (rs2Of w))
  | 1, 0x02 => needs c (unusedR w) (.vmul (rdOf w) (rs1Of w) (rs2Of w))
  | 1, 0x03 => onlyD1Ext c (needs c (unusedR w) (.vmac (rdOf w) (rs1Of w) (rs2Of w)))
  | 1, 0x04 => needs c (unusedR w) (.vdiv (rdOf w) (rs1Of w) (rs2Of w))
  | 1, 0x05 => needs c (unusedRs2 w) (.vconj (rdOf w) (rs1Of w))
  | 2, 0x00 => onlyD1Ext c (needs c (unusedR w) (.dotc (rdOf w) (rs1Of w) (rs2Of w)))
  | 2, 0x01 => needs c (unusedR w) (.dotu (rdOf w) (rs1Of w) (rs2Of w))
  | 2, 0x02 => needs c (unusedRs2 w) (.iamax (rdOf w) (rs1Of w))
  | 2, 0x03 => needs c (unusedRs2 w) (.sum (rdOf w) (rs1Of w))
  | 2, 0x04 => onlyD1Ext c (needs c (unusedRs2 w) (.asum (rdOf w) (rs1Of w)))
  | 3, 0x18 => needs c (unusedR w) (.vsadd (rdOf w) (rs1Of w) (rs2Of w))
  | 3, 0x19 => needs c (unusedR w) (.vssub (rdOf w) (rs1Of w) (rs2Of w))
  | 3, 0x1A => needs c (unusedR w) (.vsmul (rdOf w) (rs1Of w) (rs2Of w))
  | 3, 0x1B => needs c (unusedR w) (.vsdiv (rdOf w) (rs1Of w) (rs2Of w))
  | 3, 0x1C => onlyD1Ext c (laneChecked c w)
  | _, _ => .error .reservedSubop

/-- I-type by subop (30 R75, R77; 48 R200). `cscale_i` needs a zero imaginary half (48 R212). -/
def decodeI (c : Config) (w : InstrWord) : Except DecodeError Instr :=
  match (subopOf w).toNat with
  | 0x00 => needs c (unusedI w && decide (rs1Of w = 0#3)) (.cloadi (rdOf w) (immReOf w) (immImOf w))
  | 0x01 => needs c (unusedI w) (.caddI (rdOf w) (rs1Of w) (immReOf w) (immImOf w))
  | 0x02 => needs c (unusedI w) (.cmulI (rdOf w) (rs1Of w) (immReOf w) (immImOf w))
  | 0x03 => needs c (unusedI w) (.csubI (rdOf w) (rs1Of w) (immReOf w) (immImOf w))
  | 0x04 => needs c (unusedI w) (.cdivI (rdOf w) (rs1Of w) (immReOf w) (immImOf w))
  | 0x05 => onlyD1Ext c (needs c (unusedI w) (.cmaxabsI (rdOf w) (rs1Of w) (immReOf w) (immImOf w)))
  | 0x06 => onlyD1Ext c (needs c (unusedI w) (.cminabsI (rdOf w) (rs1Of w) (immReOf w) (immImOf w)))
  | 0x10 => onlyD1Ext c (needs c (unusedI w && decide (immImOf w = 0#45)) (.cscaleI (rdOf w) (rs1Of w) (immReOf w)))
  | _ => .error .reservedSubop

/-- J-type by subop (46 R170). -/
def decodeJ (c : Config) (w : InstrWord) : Except DecodeError Instr :=
  match (subopOf w).toNat with
  | 0x00 => needs c (unusedJ w) (.jrel (offs33Of w))
  | _ => .error .reservedSubop

/-- The `len16` operand of a word: present only under `D1EXT` (48 R222); otherwise the transfer length
is `VLEN`, which `len16 = 0` stands for (47 R183, 48 R223). -/
def lengthOperand (c : Config) (w : InstrWord) : BitVec 16 := if c.d1ext then len16Of w else 0#16

/-- The checks of an S-type word in their order: must-be-zero bits, the bank number, the length
(47 R182, R189; 48 R223). -/
def bankChecked (c : Config) (w : InstrWord) (ok : Bool) (len : BitVec 16) (i : Instr) :
    Except DecodeError Instr :=
  if !(ok || c.mbzIgnored) then .error .mustBeZero
  else if !(bankExists (mbidOf w)) then .error .noSuchBank
  else if len.toNat ≤ c.vlen then .ok i
  else .error .lengthTooLong

/-- S-type by subop (47 R180). -/
def decodeS (c : Config) (w : InstrWord) : Except DecodeError Instr :=
  match (subopOf w).toNat with
  | 0x00 => bankChecked c w (unusedVector c w) (lengthOperand c w)
      (.vld (rdOf w) (mbidOf w) (accessOf w) (i16Of w) (lengthOperand c w))
  | 0x01 => bankChecked c w (unusedVector c w) (lengthOperand c w)
      (.vst (rdOf w) (mbidOf w) (accessOf w) (i16Of w) (lengthOperand c w))
  | 0x02 => bankChecked c w (unusedScalar w) 0#16 (.sldXy (rdOf w) (mbidOf w) (i16Of w) (j16Of w))
  | 0x03 => bankChecked c w (unusedScalar w) 0#16 (.sstXy (rdOf w) (mbidOf w) (i16Of w) (j16Of w))
  | _ => .error .reservedSubop

/-- The decode procedure (30 R74): a total function of the 128 bits and the build. -/
def decode (c : Config) (w : InstrWord) : Except DecodeError Instr :=
  match (opcodeOf w).toNat with
  | 0x01 => decodeR c w
  | 0x02 => decodeI c w
  | 0x03 => decodeJ c w
  | 0x04 => decodeS c w
  | _ => .error .reservedOpcode

/-! ### Byte order (20_memory R44, R45) -/

/-- Byte `j` of the image of a 128-bit value: `w[8*j+7 : 8*j]` (20_memory R45, R46). -/
def wordByte (w : BitVec 128) (j : Nat) : Byte := w.extractLsb' (8 * j) 8

/-- The 128-bit value whose image has the byte `f j` at offset `j` (20_memory R45, R46). -/
def wordOfBytes (f : Nat → Byte) : BitVec 128 :=
  f 15 ++ f 14 ++ f 13 ++ f 12 ++ f 11 ++ f 10 ++ f 9 ++ f 8
    ++ f 7 ++ f 6 ++ f 5 ++ f 4 ++ f 3 ++ f 2 ++ f 1 ++ f 0

/-- The 16 bytes of a word's image, lowest address first. -/
def wordBytes (w : BitVec 128) : List Byte := (List.range 16).map (wordByte w)

/-- Decoding from bytes: the instruction of the first 16 bytes, and the bytes after it. -/
def decodeBytes (c : Config) (bs : List Byte) : Except DecodeError (Instr × List Byte) :=
  if bs.length < 16 then .error .short
  else
    match decode c (wordOfBytes fun j => bs.getD j 0#8) with
    | .ok i => .ok (i, bs.drop 16)
    | .error e => .error e

/-! ### The encoder (30 R62 to R66, R75) -/

/-- R-type (30 R62). -/
def packR (subop : BitVec 8) (m : BitVec 2) (rd rs1 rs2 : BitVec 3) (imm16 : BitVec 16) : InstrWord :=
  0x01#8 ++ subop ++ 0#14 ++ m ++ rd ++ rs1 ++ rs2 ++ imm16 ++ 0#71

/-- I-type (30 R64, R70). -/
def packI (subop : BitVec 8) (rd rs1 : BitVec 3) (re im : Imm45) : InstrWord :=
  0x02#8 ++ subop ++ 0#16 ++ rd ++ rs1 ++ re ++ im

/-- J-type with `rs1 = 001` (30 R65, 46 R170). -/
def packJ (subop : BitVec 8) (offs33 : BitVec 33) : InstrWord :=
  0x03#8 ++ subop ++ 0#16 ++ 1#3 ++ offs33 ++ 0#60

/-- S-type, with the `len16` field that `D1EXT` adds; zero there is BASE's layout
(30 R66, 48 R222). -/
def packS (subop : BitVec 8) (rc : BitVec 1) (rd : BitVec 3) (mbid : BitVec 4)
    (i16 j16 len16 : BitVec 16) : InstrWord :=
  0x04#8 ++ subop ++ rc ++ 0#15 ++ rd ++ mbid ++ i16 ++ j16 ++ len16 ++ 0#41

/-- The word of an instruction (30 R75, 48 R200). -/
def encode : Instr → InstrWord
  | .cneg rd rs1 => packR 0x00#8 0#2 rd rs1 0#3 0#16
  | .conj rd rs1 => packR 0x01#8 0#2 rd rs1 0#3 0#16
  | .csqrt rd rs1 => packR 0x02#8 0#2 rd rs1 0#3 0#16
  | .cabs2 rd rs1 => packR 0x03#8 0#2 rd rs1 0#3 0#16
  | .cabs rd rs1 => packR 0x04#8 0#2 rd rs1 0#3 0#16
  | .creal rd rs1 => packR 0x05#8 0#2 rd rs1 0#3 0#16
  | .cimag rd rs1 => packR 0x06#8 0#2 rd rs1 0#3 0#16
  | .crecip rd rs1 => packR 0x07#8 0#2 rd rs1 0#3 0#16
  | .cadd rd rs1 rs2 => packR 0x08#8 0#2 rd rs1 rs2 0#16
  | .csub rd rs1 rs2 => packR 0x09#8 0#2 rd rs1 rs2 0#16
  | .cmul rd rs1 rs2 => packR 0x0A#8 0#2 rd rs1 rs2 0#16
  | .cdiv rd rs1 rs2 => packR 0x0B#8 0#2 rd rs1 rs2 0#16
  | .vadd rd rs1 rs2 => packR 0x00#8 1#2 rd rs1 rs2 0#16
  | .vsub rd rs1 rs2 => packR 0x01#8 1#2 rd rs1 rs2 0#16
  | .vmul rd rs1 rs2 => packR 0x02#8 1#2 rd rs1 rs2 0#16
  | .vdiv rd rs1 rs2 => packR 0x04#8 1#2 rd rs1 rs2 0#16
  | .vconj rd rs1 => packR 0x05#8 1#2 rd rs1 0#3 0#16
  | .dotu rd rs1 rs2 => packR 0x01#8 2#2 rd rs1 rs2 0#16
  | .iamax rd rs1 => packR 0x02#8 2#2 rd rs1 0#3 0#16
  | .sum rd rs1 => packR 0x03#8 2#2 rd rs1 0#3 0#16
  | .vsadd rd rs1 rs2 => packR 0x18#8 3#2 rd rs1 rs2 0#16
  | .vssub rd rs1 rs2 => packR 0x19#8 3#2 rd rs1 rs2 0#16
  | .vsmul rd rs1 rs2 => packR 0x1A#8 3#2 rd rs1 rs2 0#16
  | .vsdiv rd rs1 rs2 => packR 0x1B#8 3#2 rd rs1 rs2 0#16
  | .cloadi rd re im => packI 0x00#8 rd 0#3 re im
  | .caddI rd rs1 re im => packI 0x01#8 rd rs1 re im
  | .cmulI rd rs1 re im => packI 0x02#8 rd rs1 re im
  | .csubI rd rs1 re im => packI 0x03#8 rd rs1 re im
  | .cdivI rd rs1 re im => packI 0x04#8 rd rs1 re im
  | .jrel offs33 => packJ 0x00#8 offs33
  | .vld rd mbid rc idx16 len16 => packS 0x00#8 (rcBit rc) rd mbid idx16 0#16 len16
  | .vst rd mbid rc idx16 len16 => packS 0x01#8 (rcBit rc) rd mbid idx16 0#16 len16
  | .sldXy rd mbid x16 y16 => packS 0x02#8 0#1 rd mbid x16 y16 0#16
  | .sstXy rd mbid x16 y16 => packS 0x03#8 0#1 rd mbid x16 y16 0#16
  | .cmaxabs rd rs1 rs2 => packR 0x0C#8 0#2 rd rs1 rs2 0#16
  | .cminabs rd rs1 rs2 => packR 0x0D#8 0#2 rd rs1 rs2 0#16
  | .cmpltRe rd rs1 rs2 => packR 0x0E#8 0#2 rd rs1 rs2 0#16
  | .cmpgtRe rd rs1 rs2 => packR 0x0F#8 0#2 rd rs1 rs2 0#16
  | .cmpleRe rd rs1 rs2 => packR 0x10#8 0#2 rd rs1 rs2 0#16
  | .vmac rd rs1 rs2 => packR 0x03#8 1#2 rd rs1 rs2 0#16
  | .dotc rd rs1 rs2 => packR 0x00#8 2#2 rd rs1 rs2 0#16
  | .asum rd rs1 => packR 0x04#8 2#2 rd rs1 0#3 0#16
  | .vsload rd rs2 lane => packR 0x1C#8 3#2 rd 0#3 rs2 lane
  | .cmaxabsI rd rs1 re im => packI 0x05#8 rd rs1 re im
  | .cminabsI rd rs1 re im => packI 0x06#8 rd rs1 re im
  | .cscaleI rd rs1 re => packI 0x10#8 rd rs1 re 0#45

/-! ### The opcode table's numbering -/

/-- What the decoder reads from a row of spec/opcode_table.json whose `nbits` bits are `w`. The table
holds the rows of both profiles, so the build is the one of reset with `D1EXT` (log 8); the 34 BASE
rows read the same under either profile. -/
def decodeTableWord (nbits w : Nat) : Option Instr :=
  match decodeBytes Config.decided.withD1Ext (wordBytes (BitVec.ofNat 128 (w % 2 ^ nbits))) with
  | .ok (i, _) => some i
  | .error _ => none

end Sys2Proof
end

