-- ==== Sys2Proof/Machine/State.lean ====
section
/-! DEFINITION. The state of one LAPU-128 machine as plain data (10_state R20 to R35), the reasons a step
has no successor, and the machine right after reset (70 R260). -/

namespace Sys2Proof.Machine

/-- The three exceptions, with their recorded values (60 R230, R231). The spec assigns no cause
codes. -/
inductive Exception where
  /-- An S-type instruction named a row or column at or past `SIDE` (60 R231). -/
  | bankBoundsTrap (mbid : BitVec 4) (r c : BitVec 16)
  /-- Decode found no instruction in the word (60 R232). -/
  | illegalInstruction (word : InstrWord)
  /-- The program counter left the program (60 R233). -/
  | fetchFault (pc : Int)
deriving DecidableEq, Repr

/-- Why the machine takes no further step. Neither reason is a fault that hardware signals: taking an
exception is a NEXT state with the fault record written (60 R236), and these two name the states that
have no successor. -/
inductive Fault where
  /-- Answered by `step` in the faulted state, "in which it executes nothing further" (60 R236, U18).
  Safe: it claims nothing about what hardware does after a trap. Log 10. -/
  | faulted (e : Exception)
  /-- Answered by `step` at `pc = PROG_LEN`, the normal end of a run, where "the machine takes no
  further step" (70 R266, U14). Safe: it claims nothing about what hardware does there. Log 10. -/
  | endOfRun
deriving DecidableEq, Repr

/-- Why an instruction has no meaning in the model. -/
inductive Refusal where
  /-- Raised by an arm of `exec` whose instruction has no meaning yet; no arm uses it. Safe. -/
  | notModelled (mnemonic : String)
deriving DecidableEq, Repr

/-- The bytes of one storage that have been written: byte addresses strictly rising, each with the
byte last written there (the images of 20_memory R45 to R47). An unlisted byte is one nothing has
written (log 15). -/
abbrev Memory := List Host.Cell

/-- Everything the spec gives the machine (10_state R20 to R35), the build's parameters (00_scope R6
to R9), and one counter of the model's own. -/
structure State where
  /-- The parameters of the build; no step writes them. -/
  cfg : Config
  /-- `s0` to `s7` (10_state R20). Entry 0 is never read or written (R21). -/
  sregs : Vector Cplx 8
  /-- `v0` to `v7`, the lanes of each, lane 0 first (10_state R25). Entry 0 is never read or
  written. -/
  vregs : Vector (List Cplx) 8
  /-- The program counter, an index of instruction words, an integer that does not wrap
  (10_state R28, R29; D3). -/
  pc : Int
  /-- The four matrix banks as the byte images of 20_memory R46 and R47. -/
  banks : Vector Memory 4
  /-- Instruction memory as the byte image of 20_memory R45. -/
  imem : Memory
  /-- `PROG_LEN`, the number of words the host loaded (00_scope R9). -/
  progLen : Nat
  /-- The fault record (10_state R34). -/
  fault : Option Exception
  /-- MODEL's own: how many instructions that may draw a free value have run (log 3). -/
  freeCount : Nat
deriving DecidableEq, Repr

/-- The machine of the build `c` right after reset, before the host loads anything (10_state R35,
70 R260): `pc` is 0, `fault` is none, `s0` and `v0` are zero. The other registers, which the spec
leaves unspecified, are zero by DESIGN CHOICE (log 5); no byte of a bank or of instruction memory is
written (log 6, log 7). -/
def State.resetWith (c : Config) : State where
  cfg := c
  sregs := Vector.replicate 8 Cplx.zero
  vregs := Vector.replicate 8 (List.replicate c.vlen Cplx.zero)
  pc := 0
  banks := Vector.replicate 4 []
  imem := []
  progLen := 0
  fault := none
  freeCount := 0

/-- The machine of the decided build right after reset (00_scope R9, 70 R260; log 1). -/
def State.reset : State := State.resetWith Config.decided

end Sys2Proof.Machine
end

