-- ==== Sys2Proof/Machine/Ops.lean ====
section
/-! DEFINITION. The named operations over the storages, the registers, the program counter and the fault
record (00_scope R15 to R17; 10_state R20 to R35; 20_memory R40 to R55; 60 R236). -/

namespace Sys2Proof.Machine

/-- What one instruction answers. -/
abbrev StepResult := Host.Outcome State Fault Refusal

/-! ### Bytes of a storage -/

/-- The byte last written at address `a`, if any. -/
def Memory.get? : Memory → Nat → Option Byte
  | [], _ => none
  | (a', b) :: m, a => if a' = a then some b else Memory.get? m a

/-- Writing a byte, in the canonical form: the place of the address among rising addresses. -/
def Memory.set : Memory → Nat → Byte → Memory
  | [], a, b => [(a, b)]
  | (a', b') :: m, a, b =>
    if a < a' then (a, b) :: (a', b') :: m
    else if a = a' then (a, b) :: m
    else (a', b') :: Memory.set m a b

/-- Every address of the list lies above `lo`, and they rise strictly. -/
def Memory.risesFrom : Option Nat → Memory → Bool
  | _, [] => true
  | none, (a, _) :: m => Memory.risesFrom (some a) m
  | some lo, (a, _) :: m => decide (lo < a) && Memory.risesFrom (some a) m

/-- The canonical form of a storage (log 15): addresses strictly rising. An unlisted byte is one
nothing has written, so no listed byte equals what an unlisted one is. -/
def Memory.wf (m : Memory) : Bool := Memory.risesFrom none m

/-- Every listed address lies below `size`. -/
def Memory.within (size : Nat) (m : Memory) : Bool := m.all fun cell => decide (cell.1 < size)

/-- The storage of a state (20_memory R40, R41). -/
def State.mem (s : State) : Space → Memory
  | .bank b => s.banks[b]
  | .imem => s.imem

/-- A state with one storage replaced. -/
def State.setMem (s : State) (sp : Space) (m : Memory) : State :=
  match sp with
  | .bank b => { s with banks := s.banks.set b m }
  | .imem => { s with imem := m }

/-- The byte at address `a` of a storage. A byte nothing has written since reset reads as the free
value of its place (10_state R35, U12; log 6). -/
def State.byte (s : State) (sp : Space) (a : Nat) : Byte :=
  ((s.mem sp).get? a).getD (Config.unwrittenByte sp a)

/-- The 128-bit value whose little-endian image stands at address `a` (20_memory R44 to R46). -/
def State.read128 (s : State) (sp : Space) (a : Nat) : BitVec 128 :=
  wordOfBytes fun j => s.byte sp (a + j)

/-- The first `n` bytes of a value's image written at address `a`. -/
def Memory.setBytes (m : Memory) (a : Nat) (w : BitVec 128) : Nat → Memory
  | 0 => m
  | n + 1 => (Memory.setBytes m a w n).set (a + n) (wordByte w n)

/-- A 128-bit value stored with its little-endian image at address `a` (20_memory R44 to R46). -/
def State.write128 (s : State) (sp : Space) (a : Nat) (w : BitVec 128) : State :=
  s.setMem sp (Memory.setBytes (s.mem sp) a w 16)

/-! ### Elements of the matrix banks (00_scope R16, 20_memory R46, R47) -/

/-- `im ++ re`, the 128-bit form of a complex value (10_state R23). -/
def cplxBits (z : Cplx) : BitVec 128 := z.im ++ z.re

/-- The complex value of 128 bits (10_state R23). -/
def cplxOfBits (w : BitVec 128) : Cplx := ⟨w.extractLsb' 0 64, w.extractLsb' 64 64⟩

/-- The byte offset of element `(r, c)` in its bank's image, `16 * (r * SIDE + c)` (20_memory R47;
log 13). -/
def elemAddr (cfg : Config) (r c : Nat) : Nat := 16 * (r * cfg.side + c)

/-- `BankRead(b, r, c)` (00_scope R16). -/
def State.bankRead (s : State) (b : Fin 4) (r c : Nat) : Cplx :=
  cplxOfBits (s.read128 (.bank b) (elemAddr s.cfg r c))

/-- `BankWrite(b, r, c, e)` (00_scope R16). -/
def State.bankWrite (s : State) (b : Fin 4) (r c : Nat) (e : Cplx) : State :=
  s.write128 (.bank b) (elemAddr s.cfg r c) (cplxBits e)

/-- `Fetch(pc)` (20_memory R42): the whole word at index `pc`, from 16 bytes (R45). -/
def State.fetchWord (s : State) : InstrWord := s.read128 .imem (16 * s.pc.toNat)

/-! ### Registers (00_scope R15; 10_state R20 to R27) -/

/-- `s[i]` read: `s0` reads as zero (10_state R21). -/
def State.readS (s : State) (r : SReg) : Cplx :=
  if r = 0#3 then Cplx.zero else s.sregs[r.toNat]'r.isLt

/-- `s[i] <- v`: a write to `s0` is discarded (10_state R21). -/
def State.writeS (s : State) (r : SReg) (v : Cplx) : State :=
  if r = 0#3 then s else { s with sregs := s.sregs.set r.toNat v r.isLt }

/-- `v[i][k]` read: every lane of `v0` reads as zero (10_state R25). -/
def State.lane (s : State) (r : VReg) (k : Nat) : Cplx :=
  if r = 0#3 then Cplx.zero else (s.vregs[r.toNat]'r.isLt).getD k Cplx.zero

/-- All `VLEN` lanes written, lane `k` with `f k`: a write to `v0` is discarded (10_state R25,
R26). -/
def State.writeV (s : State) (r : VReg) (f : Nat → Cplx) : State :=
  if r = 0#3 then s
  else { s with vregs := s.vregs.set r.toNat ((List.range s.cfg.vlen).map f) r.isLt }

/-! ### Program counter, free values -/

/-- `pc <- pc + 1`, without wrap (10_state R29). -/
def State.advance (s : State) : State := { s with pc := s.pc + 1 }

/-- `pc <- pc + off`, without wrap (46 R172). -/
def State.jump (s : State) (off : Int) : State := { s with pc := s.pc + off }

/-- The next instruction that may draw free values draws others (log 3). -/
def State.drawn (s : State) : State := { s with freeCount := s.freeCount + 1 }

/-- The end of an instruction with a scalar destination (41 R110). -/
def State.finishS (s : State) (rd : SReg) (v : Cplx) : State := (s.writeS rd v).advance

/-- The end of an instruction with a vector destination (42 R130). -/
def State.finishV (s : State) (rd : VReg) (f : Nat → Cplx) : State := (s.writeV rd f).advance

/-! ### Taking an exception (60 R236)

There is no return from one: "no trap-return instruction" exists and the machine never clears `fault`
(60 R237). -/

/-- `raise e` (00_scope R17, 60 R236): "changes no register, no bank element and not `pc`; `fault` is set
to the exception with its arguments". -/
def State.raise (s : State) (e : Exception) : State := { s with fault := some e }

/-- `raise IllegalInstruction(I)` by the rule of an instruction, `I` being its word (log 12). -/
def State.raiseIllegal (s : State) (i : Instr) : State := s.raise (.illegalInstruction (encode i))

end Sys2Proof.Machine
end

