-- ==== Sys2Proof/Machine/Operands.lean ====
section
/-! DEFINITION. Operand forms: the complex immediate (30 R70, R71), the branch offset (30 R72), and the
bank, coordinates and length of matrix-bank accesses (30 R73; 47 R180 to R183; 48 R223). -/

namespace Sys2Proof.Machine

/-- One half of an immediate widened to a register half, `wrap64(S(half) * 2^9)` (30 R71). -/
def widenImm (h : Imm45) : Half := wrap64 (h.toInt * 2 ^ 9)

/-- `cIMM`, the widened complex immediate (30 R71, 45 R160). -/
def cImm (re im : Imm45) : Cplx := ⟨widenImm re, widenImm im⟩

/-- `off = S(offs33)`, in instruction words (30 R72). -/
def branchOffset (offs33 : BitVec 33) : Int := offs33.toInt

/-- All lanes of a source vector, lane 0 first (10_state R26). -/
def State.lanes (s : State) (r : VReg) : List Cplx := (List.range s.cfg.vlen).map (s.lane r)

/-- The exact sum over all lanes `0 .. VLEN-1` (43 R140). -/
def State.sumLanes (s : State) (f : Nat → Int) : Int := ((List.range s.cfg.vlen).map f).sum

/-- The bank a field names (47 R182). -/
def bankOf (mbid : BitVec 4) : Option (Fin 4) :=
  if h : mbid.toNat < 4 then some ⟨mbid.toNat, h⟩ else none

/-- The row and column of lane `k` (47 R183). -/
def laneCoord (rc : Access) (idx k : Nat) : Nat × Nat :=
  match rc with
  | .row => (idx, k)
  | .column => (k, idx)

/-- The recorded exception of a vector access whose index is out of bounds (60 R231). -/
def vectorTrap (mbid : BitVec 4) (rc : Access) (idx16 : BitVec 16) : Exception :=
  match rc with
  | .row => .bankBoundsTrap mbid idx16 0#16
  | .column => .bankBoundsTrap mbid 0#16 idx16

/-- `L`, the number of elements transferred: `len16` if it is not zero, else `VLEN` (47 R183,
48 R223). -/
def transferLength (c : Config) (len16 : BitVec 16) : Nat :=
  if len16 = 0#16 then c.vlen else len16.toNat

/-- Lane `k` of a bank pattern read (47 R183). -/
def State.bankLane (s : State) (b : Fin 4) (rc : Access) (idx k : Nat) : Cplx :=
  s.bankRead b (laneCoord rc idx k).1 (laneCoord rc idx k).2

/-- The first `n` lanes of a bank pattern written (47 R183, R185). -/
def State.storeLanes (s : State) (b : Fin 4) (rc : Access) (idx : Nat) (f : Nat → Cplx) : Nat → State
  | 0 => s
  | n + 1 =>
    (s.storeLanes b rc idx f n).bankWrite b (laneCoord rc idx n).1 (laneCoord rc idx n).2 (f n)

end Sys2Proof.Machine
end

