-- ==== Sys2Proof/Machine/Bank.lean ====
section
/-! DEFINITION. S-type matrix-bank loads and stores (47 R180 to R189; with `len16`, 48 R223). The checks stand in
the order of 47 R189: the encoding and the bank number, then the coordinates, then the access. -/

namespace Sys2Proof.Machine

/-- `vld vD, mbid, rc, idx16` (47 R184) and its `len16` form (48 R223): lane `k < L` is loaded from the
bank pattern; lanes from `L` on are unspecified (U11), a free value each (log 17). -/
def execVld (rd : VReg) (mbid : BitVec 4) (rc : Access) (idx16 len16 : BitVec 16) (s : State) :
    StepResult :=
  match bankOf mbid with
  | none => .next (s.raiseIllegal (.vld rd mbid rc idx16 len16))
  | some b =>
    if s.cfg.vlen < len16.toNat then .next (s.raiseIllegal (.vld rd mbid rc idx16 len16))
    else if s.cfg.side ≤ idx16.toNat then .next (s.raise (vectorTrap mbid rc idx16))
    else if transferLength s.cfg len16 < s.cfg.vlen then
      .next (s.finishV rd fun k =>
        if k < transferLength s.cfg len16 then s.bankLane b rc idx16.toNat k
        else ⟨freePart s.freeCount k .re, freePart s.freeCount k .im⟩).drawn
    else .next (s.finishV rd fun k => s.bankLane b rc idx16.toNat k)

/-- `vst vS, mbid, rc, idx16` (47 R185) and its `len16` form (48 R223): the first `L` lanes of `v[rd]`
are stored; no register is written. -/
def execVst (rd : VReg) (mbid : BitVec 4) (rc : Access) (idx16 len16 : BitVec 16) (s : State) :
    StepResult :=
  match bankOf mbid with
  | none => .next (s.raiseIllegal (.vst rd mbid rc idx16 len16))
  | some b =>
    if s.cfg.vlen < len16.toNat then .next (s.raiseIllegal (.vst rd mbid rc idx16 len16))
    else if s.cfg.side ≤ idx16.toNat then .next (s.raise (vectorTrap mbid rc idx16))
    else
      .next (s.storeLanes b rc idx16.toNat (s.lane rd) (transferLength s.cfg len16)).advance

/-- `sld.xy sD, mbid, x16, y16` (47 R186): row `y16`, column `x16`. -/
def execSldXy (rd : SReg) (mbid : BitVec 4) (x16 y16 : BitVec 16) (s : State) : StepResult :=
  match bankOf mbid with
  | none => .next (s.raiseIllegal (.sldXy rd mbid x16 y16))
  | some b =>
    if s.cfg.side ≤ y16.toNat ∨ s.cfg.side ≤ x16.toNat then .next (s.raise (.bankBoundsTrap mbid y16 x16))
    else .next (s.finishS rd (s.bankRead b y16.toNat x16.toNat))

/-- `sst.xy sS, mbid, x16, y16` (47 R187): row `y16`, column `x16`; the stored register is `rd`. -/
def execSstXy (rd : SReg) (mbid : BitVec 4) (x16 y16 : BitVec 16) (s : State) : StepResult :=
  match bankOf mbid with
  | none => .next (s.raiseIllegal (.sstXy rd mbid x16 y16))
  | some b =>
    if s.cfg.side ≤ y16.toNat ∨ s.cfg.side ≤ x16.toNat then .next (s.raise (.bankBoundsTrap mbid y16 x16))
    else .next (s.bankWrite b y16.toNat x16.toNat (s.readS rd)).advance

end Sys2Proof.Machine
end

