-- ==== Sys2Proof/Machine/Broadcast.lean ====
section
/-! DEFINITION. R-type vector-scalar broadcast instructions, mapping 11 (44 R150 to R154): the one scalar in every
lane. -/

namespace Sys2Proof.Machine

/-- `vsadd vD, vA, sB` (44 R151), saturating per lane. -/
def execVsadd (rd rs1 : VReg) (rs2 : SReg) (s : State) : StepResult :=
  .next (s.finishV rd fun k => cAdd satH (s.lane rs1 k) (s.readS rs2))

/-- `vssub vD, vA, sB` (44 R152), vector minus scalar, saturating per lane. -/
def execVssub (rd rs1 : VReg) (rs2 : SReg) (s : State) : StepResult :=
  .next (s.finishV rd fun k => cSub satH (s.lane rs1 k) (s.readS rs2))

/-- `vsmul vD, vA, sB` (44 R153), widen then truncate. -/
def execVsmul (rd rs1 : VReg) (rs2 : SReg) (s : State) : StepResult :=
  .next (s.finishV rd fun k => cMul s.cfg (truncH s.cfg) (s.lane rs1 k) (s.readS rs2))

/-- `vsdiv vD, vA, sB` (44 R154). -/
def execVsdiv (rd rs1 : VReg) (rs2 : SReg) (s : State) : StepResult :=
  .next (s.finishV rd fun k =>
    cDiv s.cfg (unspecH s.cfg s.freeCount k) (s.lane rs1 k) (s.readS rs2)).drawn

end Sys2Proof.Machine
end

