-- ==== Sys2Proof/Machine/Immediate.lean ====
section
/-! DEFINITION. I-type immediate instructions (45 R160 to R165). -/

namespace Sys2Proof.Machine

/-- `cloadi sD, cIMM` (45 R161). -/
def execCloadi (rd : SReg) (re im : Imm45) (s : State) : StepResult :=
  .next (s.finishS rd (cImm re im))

/-- `cadd_i sD, sA, cIMM` (45 R162), saturating per half. -/
def execCaddI (rd rs1 : SReg) (re im : Imm45) (s : State) : StepResult :=
  .next (s.finishS rd (cAdd satH (s.readS rs1) (cImm re im)))

/-- `cmul_i sD, sA, cIMM` (45 R163), clamped. -/
def execCmulI (rd rs1 : SReg) (re im : Imm45) (s : State) : StepResult :=
  .next (s.finishS rd (cMul s.cfg satH (s.readS rs1) (cImm re im)))

/-- `csub_i sD, sA, cIMM` (45 R164), register minus immediate, saturating. -/
def execCsubI (rd rs1 : SReg) (re im : Imm45) (s : State) : StepResult :=
  .next (s.finishS rd (cSub satH (s.readS rs1) (cImm re im)))

/-- `cdiv_i sD, sA, cIMM` (45 R165). -/
def execCdivI (rd rs1 : SReg) (re im : Imm45) (s : State) : StepResult :=
  .next (s.finishS rd (cDiv s.cfg (unspecH s.cfg s.freeCount 0) (s.readS rs1) (cImm re im))).drawn

end Sys2Proof.Machine
end

