-- ==== Sys2Proof/Machine/Jump.lean ====
section
/-! DEFINITION. The J-type conditional jump (46 R170 to R172). -/

namespace Sys2Proof.Machine

/-- `jrel offs33` (46 R171): taken when `s1` is not complex zero; the base is the index of this
instruction and the target does not wrap (46 R172). -/
def execJrel (offs33 : BitVec 33) (s : State) : StepResult :=
  .next (if predicateTrue (s.readS 1#3) then s.jump (branchOffset offs33) else s.advance)

end Sys2Proof.Machine
end

