-- ==== Sys2Proof/Machine/Reduction.lean ====
section
/-! DEFINITION. R-type reductions to a scalar, mapping 10 (43 R140 to R143): exact sums over all lanes, reduced
once at the end. -/

namespace Sys2Proof.Machine

/-- `dotu sD, vA, vB` (43 R141): one rounding per half after the whole sum. -/
def execDotu (rd : SReg) (rs1 rs2 : VReg) (s : State) : StepResult :=
  .next (s.finishS rd
    ⟨unspecH s.cfg s.freeCount 0 .re
       (shr32 s.cfg (s.sumLanes fun k => mulRe (s.lane rs1 k) (s.lane rs2 k))),
     unspecH s.cfg s.freeCount 0 .im
       (shr32 s.cfg (s.sumLanes fun k => mulIm (s.lane rs1 k) (s.lane rs2 k)))⟩).drawn

/-- `iamax sD, vA` (43 R142). -/
def execIamax (rd : SReg) (rs1 : VReg) (s : State) : StepResult :=
  .next (s.finishS rd ⟨numberHalf s.cfg.iamaxFormat (argmax (s.lanes rs1)), 0#64⟩)

/-- `sum sD, vA` (43 R143). -/
def execSum (rd : SReg) (rs1 : VReg) (s : State) : StepResult :=
  .next (s.finishS rd
    ⟨unspecH s.cfg s.freeCount 0 .re (s.sumLanes fun k => qext (s.lane rs1 k).re),
     unspecH s.cfg s.freeCount 0 .im (s.sumLanes fun k => qext (s.lane rs1 k).im)⟩).drawn

end Sys2Proof.Machine
end

