-- ==== Sys2Proof/Machine/Scalar.lean ====
section
/-! DEFINITION. R-type scalar instructions, mapping 00 (41 R110 to R122): sources first, then `s[rd]`, then
`pc + 1`. -/

namespace Sys2Proof.Machine

/-- `cneg d, a` (41 R111). -/
def execCneg (rd rs1 : SReg) (s : State) : StepResult :=
  .next (s.finishS rd (cNeg (s.readS rs1)))

/-- `conj d, a` (41 R112). -/
def execConj (rd rs1 : SReg) (s : State) : StepResult :=
  .next (s.finishS rd (cConj (s.readS rs1)))

/-- `csqrt d, a` (41 R113, 40 R104). -/
def execCsqrt (rd rs1 : SReg) (s : State) : StepResult :=
  .next (s.finishS rd (cSqrt s.cfg s.freeCount (s.readS rs1))).drawn

/-- `cabs2 d, a` (41 R114). -/
def execCabs2 (rd rs1 : SReg) (s : State) : StepResult :=
  .next (s.finishS rd ⟨ovfTrunc s.cfg (shr32 s.cfg (mag2 (s.readS rs1))), 0#64⟩)

/-- `cabs d, a` (41 R115, 40 R105). -/
def execCabs (rd rs1 : SReg) (s : State) : StepResult :=
  .next (s.finishS rd ⟨cAbsRe s.cfg s.freeCount (s.readS rs1), 0#64⟩).drawn

/-- `creal d, a` (41 R116). -/
def execCreal (rd rs1 : SReg) (s : State) : StepResult :=
  .next (s.finishS rd ⟨(s.readS rs1).re, 0#64⟩)

/-- `cimag d, a` (41 R117). -/
def execCimag (rd rs1 : SReg) (s : State) : StepResult :=
  .next (s.finishS rd ⟨(s.readS rs1).im, 0#64⟩)

/-- `crecip d, a` (41 R118). -/
def execCrecip (rd rs1 : SReg) (s : State) : StepResult :=
  .next (s.finishS rd (cDiv s.cfg (unspecH s.cfg s.freeCount 0) one128 (s.readS rs1))).drawn

/-- `cadd d, a, b` (41 R119). -/
def execCadd (rd rs1 rs2 : SReg) (s : State) : StepResult :=
  .next (s.finishS rd (cAdd (truncH s.cfg) (s.readS rs1) (s.readS rs2)))

/-- `csub d, a, b` (41 R120). -/
def execCsub (rd rs1 rs2 : SReg) (s : State) : StepResult :=
  .next (s.finishS rd (cSub (truncH s.cfg) (s.readS rs1) (s.readS rs2)))

/-- `cmul d, a, b` (41 R121). -/
def execCmul (rd rs1 rs2 : SReg) (s : State) : StepResult :=
  .next (s.finishS rd (cMul s.cfg (truncH s.cfg) (s.readS rs1) (s.readS rs2)))

/-- `cdiv d, a, b` (41 R122). -/
def execCdiv (rd rs1 rs2 : SReg) (s : State) : StepResult :=
  .next (s.finishS rd (cDiv s.cfg (unspecH s.cfg s.freeCount 0) (s.readS rs1) (s.readS rs2))).drawn

end Sys2Proof.Machine
end

