-- ==== Sys2Proof/Machine/Secondary.lean ====
section
/-! DEFINITION. The instructions that only the profile `D1EXT` has (48 R201 to R212). Decoding gives them under
`D1EXT` alone (30 R81); their effects are the ones of this profile. -/

namespace Sys2Proof.Machine

/-- `cmaxabs d, a, b` (48 R201). -/
def execCmaxabs (rd rs1 rs2 : SReg) (s : State) : StepResult :=
  .next (s.finishS rd (maxAbs (s.readS rs1) (s.readS rs2)))

/-- `cminabs d, a, b` (48 R202). -/
def execCminabs (rd rs1 rs2 : SReg) (s : State) : StepResult :=
  .next (s.finishS rd (minAbs (s.readS rs1) (s.readS rs2)))

/-- `cmplt.re d, a, b` (48 R203): signed comparison of the real halves. -/
def execCmpltRe (rd rs1 rs2 : SReg) (s : State) : StepResult :=
  .next (s.finishS rd
    (truthValue s.cfg (decide (qext (s.readS rs1).re < qext (s.readS rs2).re))))

/-- `cmpgt.re d, a, b` (48 R204). -/
def execCmpgtRe (rd rs1 rs2 : SReg) (s : State) : StepResult :=
  .next (s.finishS rd
    (truthValue s.cfg (decide (qext (s.readS rs1).re > qext (s.readS rs2).re))))

/-- `cmple.re d, a, b` (48 R205). -/
def execCmpleRe (rd rs1 rs2 : SReg) (s : State) : StepResult :=
  .next (s.finishS rd
    (truthValue s.cfg (decide (qext (s.readS rs1).re ≤ qext (s.readS rs2).re))))

/-- One half of a fused multiply-accumulate lane before overflow: the exact sum rounded once
(48 R206). -/
def macHalf (c : Config) (acc : Half) (product : Int) : Int := shr32 c (qext acc * 2 ^ 32 + product)

/-- `vmac vD, vA, vB` (48 R206): `vD` is a source too; "all three read first". -/
def execVmac (rd rs1 rs2 : VReg) (s : State) : StepResult :=
  .next (s.finishV rd fun k =>
    ⟨unspecH s.cfg s.freeCount k .re
       (macHalf s.cfg (s.lane rd k).re (mulRe (s.lane rs1 k) (s.lane rs2 k))),
     unspecH s.cfg s.freeCount k .im
       (macHalf s.cfg (s.lane rd k).im (mulIm (s.lane rs1 k) (s.lane rs2 k)))⟩).drawn

/-- The exact real part of `conj(a) * b` (48 R207). -/
def conjMulRe (a b : Cplx) : Int := qext a.re * qext b.re + qext a.im * qext b.im

/-- The exact imaginary part of `conj(a) * b` (48 R207). -/
def conjMulIm (a b : Cplx) : Int := qext a.re * qext b.im - qext a.im * qext b.re

/-- `dotc sD, vA, vB` (48 R207): the first operand is conjugated. -/
def execDotc (rd : SReg) (rs1 rs2 : VReg) (s : State) : StepResult :=
  .next (s.finishS rd
    ⟨unspecH s.cfg s.freeCount 0 .re
       (shr32 s.cfg (s.sumLanes fun k => conjMulRe (s.lane rs1 k) (s.lane rs2 k))),
     unspecH s.cfg s.freeCount 0 .im
       (shr32 s.cfg (s.sumLanes fun k => conjMulIm (s.lane rs1 k) (s.lane rs2 k)))⟩).drawn

/-- `asum sD, vA` (48 R208): each magnitude truncated, then the exact sum. -/
def execAsum (rd : SReg) (rs1 : VReg) (s : State) : StepResult :=
  .next (s.finishS rd
    ⟨unspecH s.cfg s.freeCount 0 .re (s.sumLanes fun k => rSqrtMag (s.lane rs1 k)), 0#64⟩).drawn

/-- `vsload vD, a, i` (48 R209): one lane of `vD` is written, the others keep their values; a lane index
not below `VLEN` is an illegal instruction.
DESIGN CHOICE, unsafe (log 21): admitting `vsload` at all, against R209's advice not to without evidence
from the implementation. -/
def execVsload (rd : VReg) (rs2 : SReg) (lane : BitVec 16) (s : State) : StepResult :=
  if s.cfg.vlen ≤ lane.toNat then .next (s.raiseIllegal (.vsload rd rs2 lane))
  else .next (s.finishV rd fun k => if k = lane.toNat then s.readS rs2 else s.lane rd k)

/-- `cmaxabs_i sD, sA, cIMM` (48 R210). -/
def execCmaxabsI (rd rs1 : SReg) (re im : Imm45) (s : State) : StepResult :=
  .next (s.finishS rd (maxAbs (s.readS rs1) (cImm re im)))

/-- `cminabs_i sD, sA, cIMM` (48 R211). -/
def execCminabsI (rd rs1 : SReg) (re im : Imm45) (s : State) : StepResult :=
  .next (s.finishS rd (minAbs (s.readS rs1) (cImm re im)))

/-- `cscale_i sD, sA, rIMM` (48 R212): `c_mul(sA, cplx(r, 0))`. -/
def execCscaleI (rd rs1 : SReg) (re : Imm45) (s : State) : StepResult :=
  .next (s.finishS rd
    (cMul s.cfg (unspecH s.cfg s.freeCount 0) (s.readS rs1) (cImm re 0#45))).drawn

end Sys2Proof.Machine
end

