-- ==== Sys2Proof/Machine/Vector.lean ====
section
/-! DEFINITION. R-type lane-wise vector instructions, mapping 01 (42 R130 to R135): every lane, sources before
destination, then `pc + 1`. -/

namespace Sys2Proof.Machine

/-- `vadd vD, vA, vB` (42 R131), saturating per lane. -/
def execVadd (rd rs1 rs2 : VReg) (s : State) : StepResult :=
  .next (s.finishV rd fun k => cAdd satH (s.lane rs1 k) (s.lane rs2 k))

/-- `vsub vD, vA, vB` (42 R132), saturating per lane. -/
def execVsub (rd rs1 rs2 : VReg) (s : State) : StepResult :=
  .next (s.finishV rd fun k => cSub satH (s.lane rs1 k) (s.lane rs2 k))

/-- `vmul vD, vA, vB` (42 R133). -/
def execVmul (rd rs1 rs2 : VReg) (s : State) : StepResult :=
  .next (s.finishV rd fun k =>
    cMul s.cfg (unspecH s.cfg s.freeCount k) (s.lane rs1 k) (s.lane rs2 k)).drawn

/-- `vdiv vD, vA, vB` (42 R134). -/
def execVdiv (rd rs1 rs2 : VReg) (s : State) : StepResult :=
  .next (s.finishV rd fun k =>
    cDiv s.cfg (unspecH s.cfg s.freeCount k) (s.lane rs1 k) (s.lane rs2 k)).drawn

/-- `vconj vD, vA` (42 R135). -/
def execVconj (rd rs1 : VReg) (s : State) : StepResult :=
  .next (s.finishV rd fun k => cConj (s.lane rs1 k))

end Sys2Proof.Machine
end

