-- ==== Sys2Proof/Machine/Dispatch.lean ====
section
/-! DEFINITION. One arm for each instruction: the call of its meaning. -/

namespace Sys2Proof.Machine

-- The effect of one decoded instruction (70 R264, "execute insn by its rule").
def exec (i : Instr) (s : State) : Host.Outcome State Fault Refusal :=
  match i with
  | .cneg rd rs1 => Sys2Proof.Machine.execCneg rd rs1 s
  | .conj rd rs1 => Sys2Proof.Machine.execConj rd rs1 s
  | .csqrt rd rs1 => Sys2Proof.Machine.execCsqrt rd rs1 s
  | .cabs2 rd rs1 => Sys2Proof.Machine.execCabs2 rd rs1 s
  | .cabs rd rs1 => Sys2Proof.Machine.execCabs rd rs1 s
  | .creal rd rs1 => Sys2Proof.Machine.execCreal rd rs1 s
  | .cimag rd rs1 => Sys2Proof.Machine.execCimag rd rs1 s
  | .crecip rd rs1 => Sys2Proof.Machine.execCrecip rd rs1 s
  | .cadd rd rs1 rs2 => Sys2Proof.Machine.execCadd rd rs1 rs2 s
  | .csub rd rs1 rs2 => Sys2Proof.Machine.execCsub rd rs1 rs2 s
  | .cmul rd rs1 rs2 => Sys2Proof.Machine.execCmul rd rs1 rs2 s
  | .cdiv rd rs1 rs2 => Sys2Proof.Machine.execCdiv rd rs1 rs2 s
  | .vadd rd rs1 rs2 => Sys2Proof.Machine.execVadd rd rs1 rs2 s
  | .vsub rd rs1 rs2 => Sys2Proof.Machine.execVsub rd rs1 rs2 s
  | .vmul rd rs1 rs2 => Sys2Proof.Machine.execVmul rd rs1 rs2 s
  | .vdiv rd rs1 rs2 => Sys2Proof.Machine.execVdiv rd rs1 rs2 s
  | .vconj rd rs1 => Sys2Proof.Machine.execVconj rd rs1 s
  | .dotu rd rs1 rs2 => Sys2Proof.Machine.execDotu rd rs1 rs2 s
  | .iamax rd rs1 => Sys2Proof.Machine.execIamax rd rs1 s
  | .sum rd rs1 => Sys2Proof.Machine.execSum rd rs1 s
  | .vsadd rd rs1 rs2 => Sys2Proof.Machine.execVsadd rd rs1 rs2 s
  | .vssub rd rs1 rs2 => Sys2Proof.Machine.execVssub rd rs1 rs2 s
  | .vsmul rd rs1 rs2 => Sys2Proof.Machine.execVsmul rd rs1 rs2 s
  | .vsdiv rd rs1 rs2 => Sys2Proof.Machine.execVsdiv rd rs1 rs2 s
  | .cloadi rd re im => Sys2Proof.Machine.execCloadi rd re im s
  | .caddI rd rs1 re im => Sys2Proof.Machine.execCaddI rd rs1 re im s
  | .cmulI rd rs1 re im => Sys2Proof.Machine.execCmulI rd rs1 re im s
  | .csubI rd rs1 re im => Sys2Proof.Machine.execCsubI rd rs1 re im s
  | .cdivI rd rs1 re im => Sys2Proof.Machine.execCdivI rd rs1 re im s
  | .jrel offs33 => Sys2Proof.Machine.execJrel offs33 s
  | .vld rd mbid rc idx16 len16 => Sys2Proof.Machine.execVld rd mbid rc idx16 len16 s
  | .vst rd mbid rc idx16 len16 => Sys2Proof.Machine.execVst rd mbid rc idx16 len16 s
  | .sldXy rd mbid x16 y16 => Sys2Proof.Machine.execSldXy rd mbid x16 y16 s
  | .sstXy rd mbid x16 y16 => Sys2Proof.Machine.execSstXy rd mbid x16 y16 s
  | .cmaxabs rd rs1 rs2 => Sys2Proof.Machine.execCmaxabs rd rs1 rs2 s
  | .cminabs rd rs1 rs2 => Sys2Proof.Machine.execCminabs rd rs1 rs2 s
  | .cmpltRe rd rs1 rs2 => Sys2Proof.Machine.execCmpltRe rd rs1 rs2 s
  | .cmpgtRe rd rs1 rs2 => Sys2Proof.Machine.execCmpgtRe rd rs1 rs2 s
  | .cmpleRe rd rs1 rs2 => Sys2Proof.Machine.execCmpleRe rd rs1 rs2 s
  | .vmac rd rs1 rs2 => Sys2Proof.Machine.execVmac rd rs1 rs2 s
  | .dotc rd rs1 rs2 => Sys2Proof.Machine.execDotc rd rs1 rs2 s
  | .asum rd rs1 => Sys2Proof.Machine.execAsum rd rs1 s
  | .vsload rd rs2 lane => Sys2Proof.Machine.execVsload rd rs2 lane s
  | .cmaxabsI rd rs1 re im => Sys2Proof.Machine.execCmaxabsI rd rs1 re im s
  | .cminabsI rd rs1 re im => Sys2Proof.Machine.execCminabsI rd rs1 re im s
  | .cscaleI rd rs1 re => Sys2Proof.Machine.execCscaleI rd rs1 re s
end Sys2Proof.Machine
end

