-- ==== Sys2Proof/Machine/Loader.lean ====
section
/-! DEFINITION. What the host does outside a run (70 R260 to R263, R268): it loads instruction memory and banks
and releases reset before it, and reads banks after a normal end. -/

namespace Sys2Proof.Machine

/-- The host writes the word at index `k` of instruction memory, in the image of 20_memory R45; the
program reaches at least past it (70 R263). Nothing checks `k < IMEM_WORDS` (DESIGN CHOICE, log 22). -/
def State.loadWord (s : State) (k : Nat) (w : InstrWord) : State :=
  { s.write128 .imem (16 * k) w with progLen := max s.progLen (k + 1) }

/-- The host writes a program from word index `k` on (70 R263, step 2). -/
def State.loadFrom (s : State) (k : Nat) : List InstrWord → State
  | [] => s
  | w :: ws => (s.loadWord k w).loadFrom (k + 1) ws

/-- The host loads a program: `imem[0 .. PROG_LEN-1]` and `PROG_LEN` (70 R263).
DESIGN CHOICE, unsafe (log 22): R263 asks `1 <= PROG_LEN <= IMEM_WORDS` of the host and says nothing of
any other load; here every list is loaded whole, and `step` runs words at or above `IMEM_WORDS` too.
`State.Inv` holds of no load past `IMEM_WORDS`. -/
def State.loadProgram (s : State) (ws : List InstrWord) : State :=
  ({ s with progLen := 0 }).loadFrom 0 ws

/-- The host writes one bank element, in the image of 20_memory R46 and R47 (70 R263, step 3).
DESIGN CHOICE, unsafe (log 23): bank accesses are defined inside `SIDE` only (00_scope R16); with a row or
column at or past it this writes another element's bytes, or bytes past the bank, unchecked. -/
def State.loadElem (s : State) (b : Fin 4) (r c : Nat) (e : Cplx) : State := s.bankWrite b r c e

/-- Reset of a machine the host has loaded (70 R260): `pc = 0`, `fault = none`, registers as after
reset, "matrix banks and instruction memory as the host left them".
DESIGN CHOICE, unsafe (log 20): a bank element that an earlier run wrote, and the host has not written
since, keeps the bytes that run wrote. The spec leaves it open: 10_state R35 calls the elements the host
did not load unspecified. The model's counter of free values goes on, so no free value comes twice. -/
def State.resetLoaded (s : State) : State :=
  { State.resetWith s.cfg with
    banks := s.banks, imem := s.imem, progLen := s.progLen, freeCount := s.freeCount }

/-- The normal end of a run (70 R266), when the host may read the banks (70 R268). -/
def State.ended (s : State) : Bool := decide (s.pc = s.progLen) && decide (s.fault = none)

/-- What the host reads of a bank element after a normal end (70 R268). Registers are not visible to
it. A row or column at or past `SIDE` is not checked (DESIGN CHOICE, unsafe, log 23). -/
def State.hostRead (s : State) (b : Fin 4) (r c : Nat) : Option Cplx :=
  if s.ended then some (s.bankRead b r c) else none

/-- `w` is an instruction under `D1EXT` and none in the build `c`. -/
def needsD1Ext (c : Config) (w : InstrWord) : Bool :=
  match decode c w, decode c.withD1Ext w with
  | .error _, .ok _ => true
  | _, _ => false

/-- All that a fetch of `w` at `pc` takes besides the word: a program counter that indexes instruction
memory, no fault (60 R236), and the profile that defines the word (30 R81). Where these hold already
nothing changes. -/
def State.readyToFetch (s : State) (w : InstrWord) : State :=
  { s with
    pc := s.pc.toNat
    fault := none
    cfg := if needsD1Ext s.cfg w then s.cfg.withD1Ext else s.cfg }

end Sys2Proof.Machine
end

