-- ==== Sys2Proof/Machine/Step.lean ====
section
/-! DEFINITION. One step of the machine (70 R264), and the placing of one instruction where the next step
fetches it. -/

namespace Sys2Proof.Machine

/-- One step (70 R264): fetch, decode, execute, with the priority of 60 R235. In the faulted state and
at the end of the run no step is taken (60 R236, 70 R266; log 10). -/
def step (s : State) : Host.Outcome State Fault Refusal :=
  match s.fault with
  | some e => .fault (.faulted e)
  | none =>
    if s.pc = s.progLen then .fault .endOfRun
    else if s.pc < 0 ∨ (s.progLen : Int) < s.pc then .next (s.raise (.fetchFault s.pc))
    else
      match decode s.cfg s.fetchWord with
      | .error _ => .next (s.raise (.illegalInstruction s.fetchWord))
      | .ok i => exec i s

/-- A state whose next step runs the instruction `w` (its first `nbits` bits, zero above): what the
host's load does for one word at `pc` (log 7), with the profile `D1EXT` selected for a word that only
`D1EXT` defines (log 8), and with no bound by `IMEM_WORDS` (log 22). -/
def State.withFetchWord (s : State) (nbits w : Nat) : State :=
  (s.readyToFetch (BitVec.ofNat 128 (w % 2 ^ nbits))).loadWord s.pc.toNat
    (BitVec.ofNat 128 (w % 2 ^ nbits))

end Sys2Proof.Machine
end

