-- ==== Sys2Proof/Safety.lean ====
section
/-! DEFINITION. The terms the statements use: the invariant of the machine, what an instruction leaves
unchanged, and the arithmetic results of 40 R90 to R109 as relations between exact integers and
halves, written independently of the functions the meanings call. -/

namespace Sys2Proof.Machine

/-! ### The invariant -/

/-- The fault record tells the truth about the instruction at `pc` (60 R230 to R236). -/
def State.FaultHolds (s : State) : Prop :=
  match s.fault with
  | none => True
  | some (.bankBoundsTrap mbid r c) =>
    mbid.toNat < 4 ∧ (s.cfg.side ≤ r.toNat ∨ s.cfg.side ≤ c.toNat) ∧ 0 ≤ s.pc ∧ s.pc < s.progLen
  | some (.illegalInstruction w) =>
    w = s.fetchWord ∧ (∃ e, decode s.cfg w = .error e) ∧ 0 ≤ s.pc ∧ s.pc < s.progLen
  | some (.fetchFault p) => p = s.pc ∧ (p < 0 ∨ (s.progLen : Int) < p)

/-- What holds of the machine in every state it reaches once a host has loaded it within its bounds. -/
structure State.Inv (s : State) : Prop where
  /-- The build is one the spec admits (00_scope R6, R7, R9). -/
  build : s.cfg.Wf
  /-- `s0` holds zero (10_state R21). -/
  s0 : s.sregs[0] = Cplx.zero
  /-- `v0` holds zero in every lane (10_state R25). -/
  v0 : s.vregs[0] = List.replicate s.cfg.vlen Cplx.zero
  /-- Every vector register has `VLEN` lanes (10_state R25). -/
  lanes : ∀ r : Fin 8, s.vregs[r].length = s.cfg.vlen
  /-- Every bank is in canonical form and lies inside its `SIDE * SIDE` elements of 16 bytes
  (20_memory R40, R47). -/
  banks : ∀ b : Fin 4, Memory.wf s.banks[b] = true
    ∧ Memory.within (16 * (s.cfg.side * s.cfg.side)) s.banks[b] = true
  /-- Instruction memory is in canonical form and lies inside its capacity (10_state R33). -/
  imem : Memory.wf s.imem = true ∧ Memory.within (16 * s.cfg.imemWords) s.imem = true
  /-- `PROG_LEN <= IMEM_WORDS` (00_scope R9). -/
  program : s.progLen ≤ s.cfg.imemWords
  /-- `pc` is at most one jump away from the program (30 R72, 46 R172). -/
  pcNear : -2 ^ 32 ≤ s.pc ∧ s.pc < s.progLen + 2 ^ 32
  /-- The fault record is none or true of this state. -/
  fault : s.FaultHolds

/-! ### What stays the same -/

/-- Every scalar register reads as before. -/
def SameScalars (s t : State) : Prop := ∀ r, t.readS r = s.readS r

/-- Every lane of every vector register reads as before. -/
def SameVectors (s t : State) : Prop := ∀ r k, t.lane r k = s.lane r k

/-- Every byte of the banks and of instruction memory reads as before. -/
def SameStorage (s t : State) : Prop := ∀ sp a, t.byte sp a = s.byte sp a

/-- The build, the program's length and the fault record are as before. -/
def SameRun (s t : State) : Prop := t.cfg = s.cfg ∧ t.progLen = s.progLen ∧ t.fault = s.fault

/-- What an instruction with the scalar destination `rd` does: `s[rd]` holds a value that meets `P`,
unless `rd` is `s0`, which stays zero; every other register, every lane, every byte, the build and the
fault record stay; `pc` moves on by one (10_state R21, R29). That the other effects happen with `s0` too,
and the advance of `pc`, are the spec's own choices (D22, D3; log 18, log 9). -/
structure ScalarResult (s t : State) (rd : SReg) (P : Cplx → Prop) : Prop where
  value : rd ≠ 0#3 → P (t.readS rd)
  zero : t.readS 0#3 = Cplx.zero
  others : ∀ r, r ≠ rd → t.readS r = s.readS r
  vectors : SameVectors s t
  storage : SameStorage s t
  run : SameRun s t
  pc : t.pc = s.pc + 1

/-- What an instruction with the vector destination `rd` does: every lane `k < VLEN` of `v[rd]` meets
`P k`, unless `rd` is `v0`, which stays zero; all else stays; `pc` moves on by one (10_state R25, R26,
R29; the spec's own choices as in `ScalarResult`). -/
structure VectorResult (s t : State) (rd : VReg) (P : Nat → Cplx → Prop) : Prop where
  value : rd ≠ 0#3 → ∀ k < s.cfg.vlen, P k (t.lane rd k)
  zero : ∀ k, t.lane 0#3 k = Cplx.zero
  others : ∀ r k, r ≠ rd → t.lane r k = s.lane r k
  scalars : SameScalars s t
  storage : SameStorage s t
  run : SameRun s t
  pc : t.pc = s.pc + 1

/-- What a store does: only the bytes at the places `stored` names may change; every register, the
build and the fault record stay; `pc` moves on by one. -/
structure StoreResult (s t : State) (stored : Space → Nat → Prop) : Prop where
  outside : ∀ sp a, ¬ stored sp a → t.byte sp a = s.byte sp a
  scalars : SameScalars s t
  vectors : SameVectors s t
  run : SameRun s t
  pc : t.pc = s.pc + 1

/-- From `s` and from `s'` alike, `i` completes with a value that meets `P` in `s[rd]`. -/
def BothScalar (i : Instr) (s s' : State) (rd : SReg) (P : Cplx → Prop) : Prop :=
  ∃ t t', exec i s = .next t ∧ exec i s' = .next t' ∧ ScalarResult s t rd P ∧ ScalarResult s' t' rd P

/-- From `s` and from `s'` alike, `i` completes with every lane `k` of `v[rd]` meeting `P k`. -/
def BothVector (i : Instr) (s s' : State) (rd : VReg) (P : Nat → Cplx → Prop) : Prop :=
  ∃ t t', exec i s = .next t ∧ exec i s' = .next t' ∧ VectorResult s t rd P ∧ VectorResult s' t' rd P

/-- The 16 bytes of element `(r, c)` of bank `b` (20_memory R46, R47). -/
def ElementBytes (cfg : Config) (b : Fin 4) (r c : Nat) (sp : Space) (a : Nat) : Prop :=
  sp = .bank b ∧ elemAddr cfg r c ≤ a ∧ a < elemAddr cfg r c + 16

/-- The instructions whose rule can raise an exception: the S-type ones (60 R231) and `vsload`
(48 R209). -/
def mayRaise : Instr → Bool
  | .vld _ _ _ _ _ | .vst _ _ _ _ _ | .sldXy _ _ _ _ | .sstXy _ _ _ _ | .vsload _ _ _ => true
  | .cneg _ _ | .conj _ _ | .csqrt _ _ | .cabs2 _ _ | .cabs _ _ | .creal _ _ | .cimag _ _
  | .crecip _ _ | .cadd _ _ _ | .csub _ _ _ | .cmul _ _ _ | .cdiv _ _ _ | .vadd _ _ _ | .vsub _ _ _
  | .vmul _ _ _ | .vdiv _ _ _ | .vconj _ _ | .dotu _ _ _ | .iamax _ _ | .sum _ _ | .vsadd _ _ _
  | .vssub _ _ _ | .vsmul _ _ _ | .vsdiv _ _ _ | .cloadi _ _ _ | .caddI _ _ _ _ | .cmulI _ _ _ _
  | .csubI _ _ _ _ | .cdivI _ _ _ _ | .jrel _ | .cmaxabs _ _ _ | .cminabs _ _ _ | .cmpltRe _ _ _
  | .cmpgtRe _ _ _ | .cmpleRe _ _ _ | .vmac _ _ _ | .dotc _ _ _ | .asum _ _ | .cmaxabsI _ _ _ _
  | .cminabsI _ _ _ _ | .cscaleI _ _ _ => false

/-- The instructions that write matrix banks (10_state R32). -/
def storesToBank : Instr → Bool
  | .vst _ _ _ _ _ | .sstXy _ _ _ _ => true
  | .vld _ _ _ _ _ | .sldXy _ _ _ _ | .vsload _ _ _
  | .cneg _ _ | .conj _ _ | .csqrt _ _ | .cabs2 _ _ | .cabs _ _ | .creal _ _ | .cimag _ _
  | .crecip _ _ | .cadd _ _ _ | .csub _ _ _ | .cmul _ _ _ | .cdiv _ _ _ | .vadd _ _ _ | .vsub _ _ _
  | .vmul _ _ _ | .vdiv _ _ _ | .vconj _ _ | .dotu _ _ _ | .iamax _ _ | .sum _ _ | .vsadd _ _ _
  | .vssub _ _ _ | .vsmul _ _ _ | .vsdiv _ _ _ | .cloadi _ _ _ | .caddI _ _ _ _ | .cmulI _ _ _ _
  | .csubI _ _ _ _ | .cdivI _ _ _ _ | .jrel _ | .cmaxabs _ _ _ | .cminabs _ _ _ | .cmpltRe _ _ _
  | .cmpgtRe _ _ _ | .cmpleRe _ _ _ | .vmac _ _ _ | .dotc _ _ _ | .asum _ _ | .cmaxabsI _ _ _ _
  | .cminabsI _ _ _ _ | .cscaleI _ _ _ => false

/-! ### Arithmetic results as relations -/

/-- `wrap64` (40 R91): "the 64-bit string whose unsigned value is n mod 2^64". -/
def Wraps (n : Int) (h : Half) : Prop := (h.toNat : Int) = n % 2 ^ 64

/-- `sat64` (40 R92): the nearest integer of the range. -/
def Clamps (n : Int) (h : Half) : Prop :=
  (n < -2 ^ 63 → h.toInt = -2 ^ 63) ∧ (InRange n → h.toInt = n) ∧ (2 ^ 63 ≤ n → h.toInt = 2 ^ 63 - 1)

/-- `ovf_trunc` (40 R93). -/
def Truncates (c : Config) (n : Int) (h : Half) : Prop :=
  match c.ovfTrunc with
  | .wrap => Wraps n h
  | .saturate => Clamps n h

/-- What every treatment of the range shares (40 R91 to R94): an integer in range is the half's own. -/
def ExactInRange (n : Int) (h : Half) : Prop := InRange n → h.toInt = n

/-- `ovf_unspec` (40 R94, U5): under the strict treatment only a result in range is fixed. -/
def Unspecified (c : Config) (n : Int) (h : Half) : Prop :=
  match c.ovfUnspec with
  | .wrap => Wraps n h
  | .saturate => Clamps n h
  | .anyValue => ExactInRange n h

/-- `q` is the quotient `n / d`, `d > 0`, with its fraction discarded by `FRAC_ROUND` (40 R95). -/
def Rounds (c : Config) (n d q : Int) : Prop :=
  match c.fracRound with
  | .floor => q * d ≤ n ∧ n < (q + 1) * d
  | .towardZero => (0 ≤ n → q * d ≤ n ∧ n < (q + 1) * d) ∧ (n < 0 → (q - 1) * d < n ∧ n ≤ q * d)

/-- `z` is `a + b`, each half through `ovf` (40 R100). -/
def IsSum (ovf : Int → Half → Prop) (a b z : Cplx) : Prop :=
  ovf (a.re.toInt + b.re.toInt) z.re ∧ ovf (a.im.toInt + b.im.toInt) z.im

/-- `z` is `a - b`, each half through `ovf` (40 R100). -/
def IsDifference (ovf : Int → Half → Prop) (a b z : Cplx) : Prop :=
  ovf (a.re.toInt - b.re.toInt) z.re ∧ ovf (a.im.toInt - b.im.toInt) z.im

/-- `z` is the Q64.64 complex integer `(re, im)` brought to Q32.32: one rounding and one `ovf` per half
(40 R96, R101). -/
def IsRounded (c : Config) (ovf : Int → Half → Prop) (re im : Int) (z : Cplx) : Prop :=
  (∃ q, Rounds c re (2 ^ 32) q ∧ ovf q z.re) ∧ ∃ q, Rounds c im (2 ^ 32) q ∧ ovf q z.im

/-- `z` is `a * b` (40 R101). -/
def IsProduct (c : Config) (ovf : Int → Half → Prop) (a b z : Cplx) : Prop :=
  IsRounded c ovf (a.re.toInt * b.re.toInt - a.im.toInt * b.im.toInt)
    (a.re.toInt * b.im.toInt + a.im.toInt * b.re.toInt) z

/-- `z` is `a / b`, and zero when both halves of `b` are zero (40 R102). -/
def IsQuotient (c : Config) (ovf : Int → Half → Prop) (a b z : Cplx) : Prop :=
  (b = Cplx.zero → z = Cplx.zero)
    ∧ (b ≠ Cplx.zero →
      (∃ q, Rounds c ((a.re.toInt * b.re.toInt + a.im.toInt * b.im.toInt) * 2 ^ 32)
          (b.re.toInt ^ 2 + b.im.toInt ^ 2) q ∧ ovf q z.re)
        ∧ ∃ q, Rounds c ((a.im.toInt * b.re.toInt - a.re.toInt * b.im.toInt) * 2 ^ 32)
          (b.re.toInt ^ 2 + b.im.toInt ^ 2) q ∧ ovf q z.im)

/-- `|a|^2 * 2^64` as an exact integer (40 R103). -/
def sqMag (a : Cplx) : Int := a.re.toInt ^ 2 + a.im.toInt ^ 2

/-- `p` is the floor of the real number `r`. -/
def IsFloor (r : ℝ) (p : Int) : Prop := (p : ℝ) ≤ r ∧ r < p + 1

/-- `p` is the integer of the real half of the truncated principal square root of `a`:
`P = sqrt(2^31 * (m + x))` with `m = sqrt(x^2 + y^2)` (40 R104). -/
def IsRootRe (a : Cplx) (p : Int) : Prop :=
  IsFloor (√(2 ^ 31 * (√((a.re.toInt : ℝ) ^ 2 + (a.im.toInt : ℝ) ^ 2) + (a.re.toInt : ℝ)))) p

/-- `q` is the integer of the imaginary half: `|Q| = sqrt(2^31 * (m - x))` with the sign of `y`, its
fraction discarded by `FRAC_ROUND` (40 R104). -/
def IsRootIm (c : Config) (a : Cplx) (q : Int) : Prop :=
  let absQ : ℝ := √(2 ^ 31 * (√((a.re.toInt : ℝ) ^ 2 + (a.im.toInt : ℝ) ^ 2) - (a.re.toInt : ℝ)))
  (0 ≤ a.im.toInt → IsFloor absQ q)
    ∧ (a.im.toInt < 0 → c.fracRound = .floor → IsFloor (-absQ) q)
    ∧ (a.im.toInt < 0 → c.fracRound = .towardZero → IsFloor absQ (-q))

/-- The result `m` a root instruction gives for the exact truncated integer `n`: that one under
`SQRT_EXACT`, else any within one unit (U6). -/
def NearRoot (c : Config) (n m : Int) : Prop :=
  (c.sqrtExact = true → m = n) ∧ n - 1 ≤ m ∧ m ≤ n + 1

/-- `z` is a real number: its imaginary half is zero. -/
def IsReal (z : Cplx) : Prop := z.im = 0#64

end Sys2Proof.Machine
end

