-- ==== Sys2Proof/Certificates/Slice0/Obligations.lean ====
section
/-! DEFINITION. The statements about the machine, for the provers. -/

open Sys2Proof Sys2Proof.Machine

/-- Decoding the word of a well-formed instruction gives the instruction back. That vsload is admitted,
with R209's decided encoding, is the model's choice (DESIGN CHOICE, log 21). Which field holds which
operand, and the fields of vld and vst, are the spec's own choices (decisions D8, D19, D31, D33; log 18)
(30_encoding.md R62 to R75, 48_secondary_only.md R200, R209, R212, R222, notes/assumptions 18, 21). -/
def Obligations.DecodeOfEncode : Prop :=
  ∀ (c : Config) (i : Instr), wellFormed c i = true → decode c (encode i) = .ok i

/-- A legal word is the word of the instruction it decodes to: no bit is dropped. That vsload is
admitted, with R209's decided encoding, is the model's choice (DESIGN CHOICE, log 21). That a nonzero
unused or must-be-zero bit makes a word illegal is the spec's own choice (decisions D7, D9; log 18)
(30_encoding.md R74, R78, R80, R88, notes/assumptions 18, 21). -/
def Obligations.EncodeOfDecode : Prop :=
  ∀ (c : Config) (w : InstrWord) (i : Instr), c.mbzIgnored = false → decode c w = .ok i → encode i = w

/-- What decoding answers is a well-formed instruction of the build. That vsload is admitted, with
R209's decided encoding, is the model's choice (DESIGN CHOICE, log 21). That no word with mbid 4 to 15,
a lane at or past VLEN or len16 above VLEN decodes is the spec's own choice (decisions D20, D31; log
18), and that this holds with MBZ_IGNORED = true too is DEDUCED (log 11) (30_encoding.md R74, R81,
47_stype_matrix_bank.md R182, 48_secondary_only.md R209, R223, notes/assumptions 11, 18, 21). -/
def Obligations.DecodedIsWellFormed : Prop :=
  ∀ (c : Config) (w : InstrWord) (i : Instr), decode c w = .ok i → wellFormed c i = true

/-- Words written out from the format tables decode to their instructions. Which field holds which
operand is the spec's own choice (decisions D8, D19, D33; log 18) (95_test_vectors.md E9, E18, E21, E25,
E30, E32, E33, E36, 30_encoding.md R62 to R73, notes/assumptions 18). -/
def Obligations.SampleWordsDecode : Prop :=
  decode Config.decided 0x01080000650000000000000000000000#128 = .ok (.cadd 3#3 1#3 2#3)
    ∧ decode Config.decided 0x01010002450000000000000000000000#128 = .ok (.dotu 2#3 1#3 2#3)
    ∧ decode Config.decided 0x01180003210000000000000000000000#128 = .ok (.vsadd 1#3 0#3 2#3)
    ∧ decode Config.decided 0x020000004000001800001FFFFF000000#128
        = .ok (.cloadi 2#3 0x000000C00000#45 0x1FFFFF000000#45)
    ∧ decode Config.decided 0x030000003FFFFFFFC000000000000000#128 = .ok (.jrel 0x1FFFFFFFC#33)
    ∧ decode Config.decided 0x04000000420006000000000000000000#128
        = .ok (.vld 2#3 1#4 .row 3#16 0#16)
    ∧ decode Config.decided 0x04008000420006000000000000000000#128
        = .ok (.vld 2#3 1#4 .column 3#16 0#16)
    ∧ decode Config.decided 0x04020000820004000600000000000000#128 = .ok (.sldXy 4#3 1#4 2#16 3#16)

/-- Exactly the listed opcodes and subops are reserved, in BASE and under D1EXT. That decoding refuses
them is the spec's own choice (decision D6, log 18). That vsload is admitted, with R209's decided
encoding, is the model's choice (DESIGN CHOICE, log 21). Which profile defines which subop is the spec's
own choice as well (decision D1; log 18) (30_encoding.md R76, R77, R81, R89, 48_secondary_only.md R200,
R205, R212, notes/assumptions 18, 21). -/
def Obligations.ReservedEncodingsRefused : Prop :=
  ∀ (c : Config) (w : InstrWord),
    let op := (opcodeOf w).toNat
    let m := (mappingOf w).toNat
    let sub := (subopOf w).toNat
    let reservedSub := decode c w = .error .reservedSubop
    (decode c w = .error .reservedOpcode ↔ op = 0 ∨ 5 ≤ op)
    ∧ (op = 1 → m = 0 → (reservedSub ↔ if c.d1ext then 0x11 ≤ sub else 0x0C ≤ sub))
    ∧ (op = 1 → m = 1 → (reservedSub ↔ if c.d1ext then 0x06 ≤ sub else sub = 0x03 ∨ 0x06 ≤ sub))
    ∧ (op = 1 → m = 2 → (reservedSub ↔ if c.d1ext then 0x05 ≤ sub else sub = 0x00 ∨ 0x04 ≤ sub))
    ∧ (op = 1 → m = 3 →
        (reservedSub ↔ if c.d1ext then sub ≤ 0x17 ∨ 0x1D ≤ sub else sub ≤ 0x17 ∨ 0x1C ≤ sub))
    ∧ (op = 2 →
        (reservedSub ↔ if c.d1ext then (0x07 ≤ sub ∧ sub ≤ 0x0F) ∨ 0x11 ≤ sub else 0x05 ≤ sub))
    ∧ (op = 3 → (reservedSub ↔ 0x01 ≤ sub))
    ∧ (op = 4 → (reservedSub ↔ 0x04 ≤ sub))

/-- A step runs the instruction that the word at pc decodes to. Instruction memory, its fetch and one
atomic step an instruction are the spec's own choices (decisions D5, D25; log 18)
(70_reset_and_hazards.md R264, 20_memory.md R42, notes/assumptions 18). -/
def Obligations.StepRunsDecodedInstruction : Prop :=
  ∀ (s : State) (i : Instr), s.fault = none → 0 ≤ s.pc → s.pc < s.progLen →
    decode s.cfg s.fetchWord = .ok i → step s = exec i s

/-- A word that decodes to nothing raises IllegalInstruction with the word and no other effect. The
fault is the spec's own choice (decisions D6, D7; log 18) (30_encoding.md R79, R80, 60_exceptions.md
R232, notes/assumptions 18). -/
def Obligations.StepRaisesIllegalInstruction : Prop :=
  ∀ (s : State) (e : DecodeError), s.fault = none → 0 ≤ s.pc → s.pc < s.progLen →
    decode s.cfg s.fetchWord = .error e →
    step s = .next { s with fault := some (.illegalInstruction s.fetchWord) }

/-- Leaving the program raises FetchFault with the pc and no other effect. The fault is the spec's own
choice (decisions D4, D27; log 18), and so is a pc that is an unbounded integer (log 9)
(60_exceptions.md R233, 20_memory.md R43, notes/assumptions 9, 18). -/
def Obligations.StepRaisesFetchFault : Prop :=
  ∀ s : State, s.fault = none → (s.pc < 0 ∨ (s.progLen : Int) < s.pc) →
    step s = .next { s with fault := some (.fetchFault s.pc) }

/-- The faulted state and the normal end have no next state. That the faulted state is terminal, and
that reaching PROG_LEN ends a run, are the spec's own choices (decisions D21, D27; log 18). That the
model says so by answering a stop of its own name is its choice (DESIGN CHOICE, log 10)
(60_exceptions.md R236, R238, 70_reset_and_hazards.md R266, notes/assumptions 10, 18). -/
def Obligations.NoStepAfterFaultOrEnd : Prop :=
  ∀ s t : State, (s.fault ≠ none ∨ s.pc = s.progLen) → step s ≠ .next t

/-- After reset pc is 0, no fault is recorded and s0 and v0 read as zero. That a reset keeps a bank
element which a program, not the host, wrote is the model's choice (DESIGN CHOICE, log 20). That pc is 0
and no fault is recorded after reset are the spec's own choices (decisions D26, D21; log 18); that s0
and v0 are zero is the source's (70_reset_and_hazards.md R260, R262, 10_state.md R35, notes/assumptions
5, 18, 20). -/
def Obligations.ResetState : Prop :=
  (State.reset.pc = 0 ∧ State.reset.fault = none ∧ State.reset.readS 0#3 = Cplx.zero
      ∧ ∀ k, State.reset.lane 0#3 k = Cplx.zero)
    ∧ ∀ s : State, s.resetLoaded.pc = 0 ∧ s.resetLoaded.fault = none
      ∧ s.resetLoaded.readS 0#3 = Cplx.zero ∧ (∀ k, s.resetLoaded.lane 0#3 k = Cplx.zero)
      ∧ s.resetLoaded.cfg = s.cfg ∧ s.resetLoaded.progLen = s.progLen ∧ SameStorage s s.resetLoaded

/-- The machine right after reset meets the invariant. The other values of reset that the invariant
reads are the spec's own choices (decisions D21, D26; log 18) and the empty program the model's (log 7)
(10_state.md R35, notes/assumptions 1, 5, 7, 18). -/
def Obligations.ResetMeetsInvariant : Prop :=
  State.reset.Inv

/-- Every step keeps the invariant. The bound of pc as an unbounded integer (log 9), the place of
elements in a bank (log 13) and the conditions of the exceptions (log 18) are the spec's own choices
(10_state.md R21, R25, R29, R33, R34, 20_memory.md R40, R47, 60_exceptions.md R231, R232, R233, R236,
notes/assumptions 9, 13, 18). -/
def Obligations.StepKeepsInvariant : Prop :=
  ∀ s t : State, s.Inv → step s = .next t → t.Inv

/-- No step changes the build, PROG_LEN or a byte of instruction memory. That no instruction writes
instruction memory is the spec's own choice (decision D5; log 18) (20_memory.md R58, 00_scope.md R6, R9,
70_reset_and_hazards.md R268, notes/assumptions 18). -/
def Obligations.StepKeepsBuildAndProgram : Prop :=
  ∀ s t : State, step s = .next t →
    t.cfg = s.cfg ∧ t.progLen = s.progLen ∧ (∀ a, t.byte .imem a = s.byte .imem a)
      ∧ ∀ k, t.read128 .imem (16 * k) = s.read128 .imem (16 * k)

/-- Taking an exception changes nothing but the fault record. That nothing else changes is the spec's
own choice (decision D21; log 18), and that a faulted machine answers a stop is the model's (log 10)
(60_exceptions.md R236, notes/assumptions 10, 18). -/
def Obligations.ExceptionChangesOnlyFaultRecord : Prop :=
  (∀ (i : Instr) (s t : State), s.fault = none → exec i s = .next t → t.fault ≠ none →
      t = { s with fault := t.fault })
    ∧ (∀ s t : State, step s = .next t → t.fault ≠ none → t = { s with fault := t.fault })
    ∧ ∀ s t : State, s.fault ≠ none → step s ≠ .next t

/-- No arithmetic instruction and no jump raises an exception. That a jump out of the program raises
nothing itself, but only the next fetch does, is the spec's own choice (decision D4; log 18)
(40_fixed_point_arithmetic.md R108, 60_exceptions.md R234, notes/assumptions 18). -/
def Obligations.ArithmeticNeverTraps : Prop :=
  ∀ (i : Instr) (s : State), mayRaise i = false → ∃ t, exec i s = .next t ∧ t.fault = s.fault

/-- Every completed instruction other than jrel ends at pc + 1. The advance by one without wrap, pc
being an unbounded integer, is the spec's own choice (R29, decisions D3, D4; log 9) (10_state.md R29,
notes/assumptions 9). -/
def Obligations.PcAdvancesByOne : Prop :=
  ∀ (i : Instr) (s t : State), (∀ o, i ≠ .jrel o) → s.fault = none → exec i s = .next t →
    t.fault = none → t.pc = s.pc + 1

/-- Nothing but vst and sst.xy writes a byte of a bank. That no instruction writes instruction memory is
the spec's own choice (decision D5; log 18) (10_state.md R32, 20_memory.md R58, notes/assumptions 18).
-/
def Obligations.OnlyStoresWriteBanks : Prop :=
  ∀ (i : Instr) (s : State), storesToBank i = false → ∃ t, exec i s = .next t ∧ SameStorage s t

/-- A word placed where step fetches is fetched whole and run. The loader withFetchWord is the model's
own: it clears the fault record, turns a negative pc into 0 and raises PROG_LEN where a fetch needs it
(DESIGN CHOICE, log 7), selects D1EXT for a word that only D1EXT defines (DESIGN CHOICE, log 8), and is
not bounded by IMEM_WORDS (DESIGN CHOICE, log 22). That byte j of a word stands at offset 16*pc + j, the
factor 16 and byte offsets at all, is the spec's own reading (R45; log 18) (20_memory.md R42, R45,
70_reset_and_hazards.md R263, notes/assumptions 7, 8, 18, 22). -/
def Obligations.LoadedWordIsFetchedAndRun : Prop :=
  ∀ (s : State) (w : InstrWord),
    (s.withFetchWord 128 w.toNat).fetchWord = w
    ∧ (∀ j < 16, (s.withFetchWord 128 w.toNat).byte .imem (16 * s.pc.toNat + j)
        = w.extractLsb' (8 * j) 8)
    ∧ ∀ i, decode (s.withFetchWord 128 w.toNat).cfg w = .ok i →
        step (s.withFetchWord 128 w.toNat) = exec i (s.withFetchWord 128 w.toNat)

/-- cneg negates both halves and conj the imaginary half, in two's complement (R98, R99). -/
def Obligations.NegateAndConjugate : Prop :=
  ∀ (s : State) (rd a : SReg),
    let x := s.readS a
    (∃ t, exec (.cneg rd a) s = .next t ∧ ScalarResult s t rd fun z =>
      z = ⟨-x.re, -x.im⟩ ∧ Wraps (-x.re.toInt) z.re ∧ Wraps (-x.im.toInt) z.im
        ∧ (x.re.toInt = -2 ^ 63 → z.re = x.re) ∧ (x.im.toInt = -2 ^ 63 → z.im = x.im))
    ∧ ∃ t, exec (.conj rd a) s = .next t ∧ ScalarResult s t rd fun z =>
      z = ⟨x.re, -x.im⟩ ∧ Wraps (-x.im.toInt) z.im ∧ (x.im.toInt = -2 ^ 63 → z.im = x.im)

/-- creal and cimag move one half into the real half and clear the imaginary half (R116, R117). -/
def Obligations.RealAndImaginaryParts : Prop :=
  ∀ (s : State) (rd a : SReg),
    (subopOf (encode (.creal rd a)) = 0x05#8 ∧ ∃ t, exec (.creal rd a) s = .next t
      ∧ ScalarResult s t rd fun z => z = ⟨(s.readS a).re, 0#64⟩)
    ∧ subopOf (encode (.cimag rd a)) = 0x06#8 ∧ ∃ t, exec (.cimag rd a) s = .next t
      ∧ ScalarResult s t rd fun z => z = ⟨(s.readS a).im, 0#64⟩

/-- cadd and csub give the exact sum and difference through ovf_trunc. What truncation does out of range
is the spec's own choice, here either value of its switch (decision D10; log 2) (41_rtype_scalar.md
R110, R119, R120, 40_fixed_point_arithmetic.md R93, R100, notes/assumptions 2). -/
def Obligations.AddAndSubtractTruncate : Prop :=
  ∀ (s : State) (rd a b : SReg),
    (∃ t, exec (.cadd rd a b) s = .next t
      ∧ ScalarResult s t rd (IsSum (Truncates s.cfg) (s.readS a) (s.readS b)))
    ∧ ∃ t, exec (.csub rd a b) s = .next t
      ∧ ScalarResult s t rd (IsDifference (Truncates s.cfg) (s.readS a) (s.readS b))

/-- cmul rounds each half once, after the sum of products, and truncates it. The single rounding, its
direction and what truncation does out of range are the spec's own choices, the last two either value of
a switch (decisions D17, D11, D10; log 18, log 2) (41_rtype_scalar.md R110, R121,
40_fixed_point_arithmetic.md R93, R96, R101, notes/assumptions 2, 18). -/
def Obligations.MultiplyTruncates : Prop :=
  ∀ (s : State) (rd a b : SReg), ∃ t, exec (.cmul rd a b) s = .next t
    ∧ ScalarResult s t rd (IsProduct s.cfg (Truncates s.cfg) (s.readS a) (s.readS b))

/-- cdiv and crecip give the once-rounded quotient, and zero for a zero divisor. What counts as a zero
divisor, the single rounding, its direction and the treatment of a quotient out of range are the spec's
own choices, the last two any value of a switch (decisions D14, D17, D11, D13; log 18, log 2)
(41_rtype_scalar.md R110, R118, R122, 40_fixed_point_arithmetic.md R94, R95, R102, notes/assumptions 2,
18). -/
def Obligations.DivideAndReciprocal : Prop :=
  ∀ (s : State) (rd a b : SReg),
    (∃ t, exec (.cdiv rd a b) s = .next t
      ∧ ScalarResult s t rd (IsQuotient s.cfg (Unspecified s.cfg) (s.readS a) (s.readS b)))
    ∧ ∃ t, exec (.crecip rd a) s = .next t
      ∧ ScalarResult s t rd (IsQuotient s.cfg (Unspecified s.cfg) ⟨one64, 0#64⟩ (s.readS a))

/-- cabs2 gives the squared magnitude, rounded once and truncated. The single rounding, its direction
and what truncation does out of range are the spec's own choices, the last two either value of a switch
(decisions D17, D11, D10; log 18, log 2) (41_rtype_scalar.md R110, R114, 40_fixed_point_arithmetic.md
R93, R96, notes/assumptions 2, 18). -/
def Obligations.SquaredMagnitude : Prop :=
  ∀ (s : State) (rd a : SReg), ∃ t, exec (.cabs2 rd a) s = .next t
    ∧ ScalarResult s t rd fun z =>
      IsReal z ∧ ∃ q, Rounds s.cfg (sqMag (s.readS a)) (2 ^ 32) q ∧ Truncates s.cfg q z.re

/-- cabs gives the truncated magnitude through ovf_trunc. With SQRT_EXACT = false the error, and the
bound 0 <= m, stand before the range reduction: the model's choice (DEDUCED, log 4). The exact root as
the reference result, and what truncation does out of range, are the spec's own choices (decisions D15,
D10; log 18, log 2) (41_rtype_scalar.md R110, R115, 40_fixed_point_arithmetic.md R97, R105,
93_implementation_defined.md U6, notes/assumptions 2, 4, 18). -/
def Obligations.MagnitudeIsIntegerSquareRoot : Prop :=
  ∀ (s : State) (rd a : SReg), ∃ t, exec (.cabs rd a) s = .next t
    ∧ ScalarResult s t rd fun z =>
      IsReal z ∧ ∃ r m : Int, 0 ≤ r ∧ r ^ 2 ≤ sqMag (s.readS a) ∧ sqMag (s.readS a) < (r + 1) ^ 2
        ∧ NearRoot s.cfg r m ∧ 0 ≤ m ∧ (s.readS a = Cplx.zero → m = 0) ∧ Truncates s.cfg m z.re

/-- csqrt gives the principal square root over the reals, each half truncated. R104 marks its reading of
"principal" as from general knowledge, not in the source. The exact root as the reference result, and
the direction of truncation, are the spec's own choices (decisions D15, D11; log 18, log 2)
(41_rtype_scalar.md R110, R113, 40_fixed_point_arithmetic.md R104, 93_implementation_defined.md U6,
notes/assumptions 2, 4, 18). -/
def Obligations.SquareRootIsTruncatedPrincipalRoot : Prop :=
  ∀ (s : State) (rd a : SReg), ∃ t, exec (.csqrt rd a) s = .next t
    ∧ ScalarResult s t rd fun z =>
      (∃ p, IsRootRe (s.readS a) p ∧ NearRoot s.cfg p z.re.toInt)
        ∧ (∃ q, IsRootIm s.cfg (s.readS a) q ∧ NearRoot s.cfg q z.im.toInt)
        ∧ 0 ≤ z.re.toInt ∧ (s.readS a = Cplx.zero → z = Cplx.zero)

/-- vadd and vsub saturate each half of each lane on its own. That each half saturates on its own is the
spec's own choice (decision D12; log 18) (42_rtype_vector_vector.md R130, R131, R132,
40_fixed_point_arithmetic.md R92, R107, notes/assumptions 18). -/
def Obligations.VectorAddAndSubtractSaturate : Prop :=
  ∀ (s : State) (rd a b : VReg),
    (∃ t, exec (.vadd rd a b) s = .next t
      ∧ VectorResult s t rd fun k z => IsSum Clamps (s.lane a k) (s.lane b k) z)
    ∧ ∃ t, exec (.vsub rd a b) s = .next t
      ∧ VectorResult s t rd fun k z => IsDifference Clamps (s.lane a k) (s.lane b k) z

/-- vmul multiplies lane by lane, one rounding per half, through ovf_unspec. The single rounding, its
direction and the treatment of a result out of range are the spec's own choices, the last two any value
of a switch (decisions D17, D11, D13; log 18, log 2) (42_rtype_vector_vector.md R130, R133,
40_fixed_point_arithmetic.md R94, R101, notes/assumptions 2, 18). -/
def Obligations.VectorMultiply : Prop :=
  ∀ (s : State) (rd a b : VReg), ∃ t, exec (.vmul rd a b) s = .next t
    ∧ VectorResult s t rd fun k z =>
      IsProduct s.cfg (Unspecified s.cfg) (s.lane a k) (s.lane b k) z

/-- vdiv divides lane by lane; a lane with a zero divisor becomes zero. What counts as a zero divisor,
the single rounding, its direction and the treatment of a quotient out of range are the spec's own
choices, the last two any value of a switch (decisions D14, D17, D11, D13; log 18, log 2)
(42_rtype_vector_vector.md R130, R134, 40_fixed_point_arithmetic.md R94, R102, notes/assumptions 2, 18).
-/
def Obligations.VectorDivide : Prop :=
  ∀ (s : State) (rd a b : VReg), ∃ t, exec (.vdiv rd a b) s = .next t
    ∧ VectorResult s t rd fun k z =>
      IsQuotient s.cfg (Unspecified s.cfg) (s.lane a k) (s.lane b k) z

/-- vconj conjugates every lane in two's complement (42_rtype_vector_vector.md R130, R135,
40_fixed_point_arithmetic.md R99). -/
def Obligations.VectorConjugate : Prop :=
  ∀ (s : State) (rd a : VReg), ∃ t, exec (.vconj rd a) s = .next t
    ∧ VectorResult s t rd fun k z => z = ⟨(s.lane a k).re, -(s.lane a k).im⟩

/-- dotu and dotc sum all products exactly and round once at the end. The one rounding at the end, its
direction and the treatment of a result out of range are the spec's own choices, the last two any value
of a switch (decisions D17, D11, D13; log 18, log 2) (43_rtype_reductions.md R140, R141,
48_secondary_only.md R207, 40_fixed_point_arithmetic.md R94, R96, notes/assumptions 2, 18). -/
def Obligations.DotProductsRoundOnce : Prop :=
  ∀ (s : State) (rd : SReg) (a b : VReg),
    (∃ t, exec (.dotu rd a b) s = .next t
      ∧ ScalarResult s t rd (IsRounded s.cfg (Unspecified s.cfg)
          (∑ k ∈ Finset.range s.cfg.vlen, ((s.lane a k).re.toInt * (s.lane b k).re.toInt
            - (s.lane a k).im.toInt * (s.lane b k).im.toInt))
          (∑ k ∈ Finset.range s.cfg.vlen, ((s.lane a k).re.toInt * (s.lane b k).im.toInt
            + (s.lane a k).im.toInt * (s.lane b k).re.toInt))))
    ∧ ∃ t, exec (.dotc rd a b) s = .next t
      ∧ ScalarResult s t rd (IsRounded s.cfg (Unspecified s.cfg)
          (∑ k ∈ Finset.range s.cfg.vlen, ((s.lane a k).re.toInt * (s.lane b k).re.toInt
            + (s.lane a k).im.toInt * (s.lane b k).im.toInt))
          (∑ k ∈ Finset.range s.cfg.vlen, ((s.lane a k).re.toInt * (s.lane b k).im.toInt
            - (s.lane a k).im.toInt * (s.lane b k).re.toInt)))

/-- sum and asum add all lanes exactly and reduce once at the end. That the magnitudes asum adds are
exact in every build, SQRT_EXACT = false included, is the model's choice (DEDUCED, unsafe there: log 4);
R208 calls its truncation the spec's choice (log 18). The one reduction at the end, and what it does out
of range, are the spec's own choices (decisions D17, D13; log 18, log 2) (43_rtype_reductions.md R140,
R143, 48_secondary_only.md R208, 40_fixed_point_arithmetic.md R94, R97, notes/assumptions 2, 4, 18). -/
def Obligations.SumsAreExact : Prop :=
  ∀ (s : State) (rd : SReg) (a : VReg),
    (∃ t, exec (.sum rd a) s = .next t
      ∧ ScalarResult s t rd fun z =>
        Unspecified s.cfg (∑ k ∈ Finset.range s.cfg.vlen, (s.lane a k).re.toInt) z.re
          ∧ Unspecified s.cfg (∑ k ∈ Finset.range s.cfg.vlen, (s.lane a k).im.toInt) z.im)
    ∧ ∃ t, exec (.asum rd a) s = .next t
      ∧ ScalarResult s t rd fun z =>
        IsReal z ∧ ∃ r : Nat → Int,
          (∀ k, 0 ≤ r k ∧ r k ^ 2 ≤ sqMag (s.lane a k) ∧ sqMag (s.lane a k) < (r k + 1) ^ 2)
            ∧ Unspecified s.cfg (∑ k ∈ Finset.range s.cfg.vlen, r k) z.re

/-- iamax gives the lowest index of the largest magnitude, compared exactly. That the lowest index wins
a tie, and the scale in which the index is written, are the spec's own choices (R142, decision D16; log
18, log 2) (43_rtype_reductions.md R140, R142, 40_fixed_point_arithmetic.md R103, notes/assumptions 2,
18). -/
def Obligations.IndexOfLargestMagnitude : Prop :=
  ∀ (s : State) (rd : SReg) (a : VReg), 1 ≤ s.cfg.vlen → ∃ t, exec (.iamax rd a) s = .next t
    ∧ ScalarResult s t rd fun z =>
      ∃ j < s.cfg.vlen, (∀ k < s.cfg.vlen, sqMag (s.lane a k) ≤ sqMag (s.lane a j))
        ∧ (∀ k < j, sqMag (s.lane a k) < sqMag (s.lane a j))
        ∧ (s.cfg.iamaxFormat = .q32_32 → z = ⟨BitVec.ofNat 64 (j * 2 ^ 32), 0#64⟩)
        ∧ (s.cfg.iamaxFormat = .raw → z = ⟨BitVec.ofNat 64 j, 0#64⟩)

/-- vsadd and vssub use the one scalar in every lane and saturate. That each half saturates on its own
is the spec's own choice (decision D12; log 18) (44_rtype_vector_scalar.md R150, R151, R152,
40_fixed_point_arithmetic.md R92, R107, notes/assumptions 18). -/
def Obligations.BroadcastAddAndSubtractSaturate : Prop :=
  ∀ (s : State) (rd a : VReg) (b : SReg),
    (∃ t, exec (.vsadd rd a b) s = .next t
      ∧ VectorResult s t rd fun k z => IsSum Clamps (s.lane a k) (s.readS b) z)
    ∧ ∃ t, exec (.vssub rd a b) s = .next t
      ∧ VectorResult s t rd fun k z => IsDifference Clamps (s.lane a k) (s.readS b) z

/-- vsmul truncates the product and vsdiv the quotient of every lane by one scalar. What counts as a
zero divisor, the single rounding, its direction and the treatment of a result out of range are the
spec's own choices, the last two any value of a switch (decisions D14, D17, D11, D10, D13; log 18, log
2) (44_rtype_vector_scalar.md R150, R153, R154, 40_fixed_point_arithmetic.md R93, R94, R101, R102,
notes/assumptions 2, 18). -/
def Obligations.BroadcastMultiplyAndDivide : Prop :=
  ∀ (s : State) (rd a : VReg) (b : SReg),
    (∃ t, exec (.vsmul rd a b) s = .next t
      ∧ VectorResult s t rd fun k z =>
        IsProduct s.cfg (Truncates s.cfg) (s.lane a k) (s.readS b) z)
    ∧ ∃ t, exec (.vsdiv rd a b) s = .next t
      ∧ VectorResult s t rd fun k z =>
        IsQuotient s.cfg (Unspecified s.cfg) (s.lane a k) (s.readS b) z

/-- cloadi writes the immediate widened from Q22.23 to Q32.32 with no loss. The packing and the exact
widening are the spec's own reading (decision D33; log 18) (45_itype_immediate.md R160, R161,
30_encoding.md R71, notes/assumptions 18). -/
def Obligations.LoadImmediateWidensExactly : Prop :=
  ∀ (s : State) (rd : SReg) (re im : Imm45), ∃ t, exec (.cloadi rd re im) s = .next t
    ∧ ScalarResult s t rd fun z => z.re.toInt = re.toInt * 2 ^ 9 ∧ z.im.toInt = im.toInt * 2 ^ 9

/-- The immediate arithmetic forms act on the widened immediate with their own overflow words. The exact
widening, the halves that saturate each on its own, what counts as a zero divisor, the single rounding,
its direction and the treatment of a quotient out of range are the spec's own choices, the last two any
value of a switch (decisions D33, D12, D14, D17, D11, D13; log 18, log 2) (45_itype_immediate.md R160,
R162, R163, R164, R165, 30_encoding.md R71, 40_fixed_point_arithmetic.md R109, notes/assumptions 2, 18).
-/
def Obligations.ImmediateArithmetic : Prop :=
  ∀ (s : State) (rd a : SReg) (re im : Imm45) (c : Cplx),
    c.re.toInt = re.toInt * 2 ^ 9 → c.im.toInt = im.toInt * 2 ^ 9 →
    (∃ t, exec (.caddI rd a re im) s = .next t
      ∧ ScalarResult s t rd (IsSum Clamps (s.readS a) c))
    ∧ (∃ t, exec (.csubI rd a re im) s = .next t
      ∧ ScalarResult s t rd (IsDifference Clamps (s.readS a) c))
    ∧ (∃ t, exec (.cmulI rd a re im) s = .next t
      ∧ ScalarResult s t rd (IsProduct s.cfg Clamps (s.readS a) c))
    ∧ ∃ t, exec (.cdivI rd a re im) s = .next t
      ∧ ScalarResult s t rd (IsQuotient s.cfg (Unspecified s.cfg) (s.readS a) c)

/-- jrel adds the signed offset to pc when s1 is not zero, else one, and changes nothing else. The
predicate "nonzero" is the spec's reading (decision D18; log 18), and the unbounded target its choice
(log 9) (46_jtype_jump.md R171, R172, 10_state.md R29, notes/assumptions 9, 18). -/
def Obligations.JumpOnNonzeroPredicate : Prop :=
  ∀ (s : State) (off : BitVec 33), ∃ t, exec (.jrel off) s = .next t
    ∧ (((s.readS 1#3).re ≠ 0#64 ∨ (s.readS 1#3).im ≠ 0#64) → t.pc = s.pc + off.toInt)
    ∧ (((s.readS 1#3).re = 0#64 ∧ (s.readS 1#3).im = 0#64) → t.pc = s.pc + 1)
    ∧ SameScalars s t ∧ SameVectors s t ∧ SameStorage s t ∧ SameRun s t

/-- vld fills the lanes from the row or column pattern of the bank. That L is VLEN in BASE, and what a
short length leaves open, are the spec's own choices (decisions D19, D31; log 18, log 17)
(47_stype_matrix_bank.md R180, R183, R184, 48_secondary_only.md R223, notes/assumptions 17, 18). -/
def Obligations.VectorLoadReadsRowOrColumn : Prop :=
  ∀ (s : State) (rd : VReg) (mbid : BitVec 4) (rc : Access) (idx len : BitVec 16) (b : Fin 4),
    mbid.toNat = b → idx.toNat < s.cfg.side → len.toNat ≤ s.cfg.vlen →
    ∃ t, exec (.vld rd mbid rc idx len) s = .next t
      ∧ VectorResult s t rd fun k z => (len ≠ 0#16 → k < len.toNat) →
        (rc = .row → z = s.bankRead b idx.toNat k) ∧ (rc = .column → z = s.bankRead b k idx.toNat)

/-- vst writes exactly the first L elements of the row or column pattern. The bytes of an element stand
where R47, the spec's own choice, puts them (log 13). That L is VLEN in BASE, and what a short length
stores, are the spec's own choices (decisions D19, D31; log 18) (47_stype_matrix_bank.md R180, R183,
R185, 48_secondary_only.md R223, 20_memory.md R47, notes/assumptions 13, 18). -/
def Obligations.VectorStoreWritesRowOrColumn : Prop :=
  ∀ (s : State) (rd : VReg) (mbid : BitVec 4) (rc : Access) (idx len : BitVec 16) (b : Fin 4),
    mbid.toNat = b → idx.toNat < s.cfg.side → len.toNat ≤ s.cfg.vlen →
    ∃ t, exec (.vst rd mbid rc idx len) s = .next t
      ∧ StoreResult s t (fun sp a => ∃ k < transferLength s.cfg len,
          ElementBytes s.cfg b (laneCoord rc idx.toNat k).1 (laneCoord rc idx.toNat k).2 sp a)
      ∧ ∀ k < s.cfg.vlen, (len ≠ 0#16 → k < len.toNat) →
        (rc = .row → t.bankRead b idx.toNat k = s.lane rd k)
          ∧ (rc = .column → t.bankRead b k idx.toNat = s.lane rd k)

/-- sld.xy reads the element at row y16, column x16 (47_stype_matrix_bank.md R180, R186). -/
def Obligations.ScalarLoadReadsElement : Prop :=
  ∀ (s : State) (rd : SReg) (mbid : BitVec 4) (x y : BitVec 16) (b : Fin 4),
    mbid.toNat = b → x.toNat < s.cfg.side → y.toNat < s.cfg.side →
    ∃ t, exec (.sldXy rd mbid x y) s = .next t
      ∧ ScalarResult s t rd fun z => z = s.bankRead b y.toNat x.toNat

/-- sst.xy writes the 16-byte little-endian image of one element and nothing else. Where the element
stands in its bank, row-major at byte offset 16*(y16*SIDE + x16), is the spec's own choice for the
host's image, which the model takes for its storage (R47, decision D29; log 13) (47_stype_matrix_bank.md
R180, R187, 20_memory.md R46, R47, notes/assumptions 13). -/
def Obligations.ScalarStoreWritesElementImage : Prop :=
  ∀ (s : State) (rd : SReg) (mbid : BitVec 4) (x y : BitVec 16) (b : Fin 4),
    mbid.toNat = b → x.toNat < s.cfg.side → y.toNat < s.cfg.side →
    ∃ t, exec (.sstXy rd mbid x y) s = .next t
      ∧ StoreResult s t (ElementBytes s.cfg b y.toNat x.toNat)
      ∧ (∀ j < 8, t.byte (.bank b) (16 * (y.toNat * s.cfg.side + x.toNat) + j)
            = (s.readS rd).re.extractLsb' (8 * j) 8)
      ∧ ∀ j < 8, t.byte (.bank b) (16 * (y.toNat * s.cfg.side + x.toNat) + 8 + j)
            = (s.readS rd).im.extractLsb' (8 * j) 8

/-- An out-of-bounds coordinate raises BankBoundsTrap with its arguments and has no other effect. The
trap of vld and vst and the coordinate they record are the spec's own choice (decision D20; log 18)
(60_exceptions.md R231, 47_stype_matrix_bank.md R181, notes/assumptions 18). -/
def Obligations.OutOfBoundsCoordinatesTrap : Prop :=
  ∀ (s : State) (rd : BitVec 3) (mbid : BitVec 4), mbid.toNat < 4 →
    (∀ x y : BitVec 16, (s.cfg.side ≤ y.toNat ∨ s.cfg.side ≤ x.toNat) →
      exec (.sldXy rd mbid x y) s = .next { s with fault := some (.bankBoundsTrap mbid y x) }
      ∧ exec (.sstXy rd mbid x y) s = .next { s with fault := some (.bankBoundsTrap mbid y x) })
    ∧ ∀ idx len : BitVec 16, s.cfg.side ≤ idx.toNat → len.toNat ≤ s.cfg.vlen →
      exec (.vld rd mbid .row idx len) s
          = .next { s with fault := some (.bankBoundsTrap mbid idx 0#16) }
      ∧ exec (.vld rd mbid .column idx len) s
          = .next { s with fault := some (.bankBoundsTrap mbid 0#16 idx) }
      ∧ exec (.vst rd mbid .row idx len) s
          = .next { s with fault := some (.bankBoundsTrap mbid idx 0#16) }
      ∧ exec (.vst rd mbid .column idx len) s
          = .next { s with fault := some (.bankBoundsTrap mbid 0#16 idx) }

/-- An S-type word with mbid 4 to 15 raises IllegalInstruction, before the coordinates are looked at.
That such a word is illegal is the spec's own choice (decision D20; log 18) (47_stype_matrix_bank.md
R182, R189, notes/assumptions 18). -/
def Obligations.BankNumberAboveThreeIsIllegal : Prop :=
  ∀ s : State, s.fault = none → 0 ≤ s.pc → s.pc < s.progLen →
    opcodeOf s.fetchWord = 0x04#8 → (subopOf s.fetchWord).toNat < 4 → 4 ≤ (mbidOf s.fetchWord).toNat →
    step s = .next { s with fault := some (.illegalInstruction s.fetchWord) }

/-- sld.xy after sst.xy to the same element returns the stored value, and other elements are untouched.
That a load sees every earlier store is the spec's own choice (decision D25; log 18)
(47_stype_matrix_bank.md R188, 20_memory.md R52, R55, notes/assumptions 18). -/
def Obligations.StoreThenLoadScalar : Prop :=
  ∀ (s : State) (rs rd : SReg) (mbid : BitVec 4) (x y : BitVec 16) (b : Fin 4),
    mbid.toNat = b → x.toNat < s.cfg.side → y.toNat < s.cfg.side →
    ∃ t u, exec (.sstXy rs mbid x y) s = .next t ∧ exec (.sldXy rd mbid x y) t = .next u
      ∧ u.readS rd = (if rd = 0#3 then Cplx.zero else s.readS rs)
      ∧ ∀ (b' : Fin 4) (r c : Nat), c < s.cfg.side → ¬ (b' = b ∧ r = y.toNat ∧ c = x.toNat) →
        t.bankRead b' r c = s.bankRead b' r c

/-- vld after vst with the same operands returns every stored lane. The forms with rd = v0 and sd = s0
are covered by VectorLoadReadsRowOrColumn and ScalarLoadReadsElement. That L is VLEN, and that a load
sees every earlier store, are the spec's own choices (decisions D19, D25; log 18)
(47_stype_matrix_bank.md R183, R188, 20_memory.md R51, R55, notes/assumptions 18). -/
def Obligations.StoreThenLoadVector : Prop :=
  ∀ (s : State) (rs rd : VReg) (sd : SReg) (mbid : BitVec 4) (rc : Access) (idx : BitVec 16) (b : Fin 4),
    mbid.toNat = b → idx.toNat < s.cfg.side → rd ≠ 0#3 → sd ≠ 0#3 →
    ∃ t u, exec (.vst rs mbid rc idx 0#16) s = .next t ∧ exec (.vld rd mbid rc idx 0#16) t = .next u
      ∧ (∀ k < s.cfg.vlen, u.lane rd k = s.lane rs k)
      ∧ ∀ k : BitVec 16, k.toNat < s.cfg.vlen → k.toNat < s.cfg.side → ∃ v,
        exec (match rc with
          | .row => .sldXy sd mbid k idx
          | .column => .sldXy sd mbid idx k) u = .next v
        ∧ v.readS sd = u.lane rd k.toNat

/-- cmaxabs and cminabs, and their immediate forms, copy one operand, the first on a tie
(48_secondary_only.md R201, R202, R210, R211, 40_fixed_point_arithmetic.md R103). -/
def Obligations.LargerAndSmallerMagnitude : Prop :=
  ∀ (s : State) (rd a b : SReg) (re im : Imm45) (c : Cplx),
    c.re.toInt = re.toInt * 2 ^ 9 → c.im.toInt = im.toInt * 2 ^ 9 →
    (∃ t, exec (.cmaxabs rd a b) s = .next t ∧ ScalarResult s t rd fun z =>
      z = if sqMag (s.readS a) < sqMag (s.readS b) then s.readS b else s.readS a)
    ∧ (∃ t, exec (.cminabs rd a b) s = .next t ∧ ScalarResult s t rd fun z =>
      z = if sqMag (s.readS b) < sqMag (s.readS a) then s.readS b else s.readS a)
    ∧ (∃ t, exec (.cmaxabsI rd a re im) s = .next t ∧ ScalarResult s t rd fun z =>
      z = if sqMag (s.readS a) < sqMag c then c else s.readS a)
    ∧ ∃ t, exec (.cminabsI rd a re im) s = .next t ∧ ScalarResult s t rd fun z =>
      z = if sqMag c < sqMag (s.readS a) then c else s.readS a

/-- cmplt.re, cmpgt.re and cmple.re write one or zero by the signed order of the real halves. The scale
of a true result is the spec's own choice, here either value of its switch (decision D30; log 2)
(48_secondary_only.md R203, R204, R205, R221, notes/assumptions 2). -/
def Obligations.RealComparisons : Prop :=
  ∀ (s : State) (rd a b : SReg),
    let one : Half := match s.cfg.boolFormat with
      | .q32_32 => one64
      | .raw => 1#64
    let x := (s.readS a).re.toInt
    let u := (s.readS b).re.toInt
    (∃ t, exec (.cmpltRe rd a b) s = .next t ∧ ScalarResult s t rd fun z =>
      z = ⟨if x < u then one else 0#64, 0#64⟩)
    ∧ (∃ t, exec (.cmpgtRe rd a b) s = .next t ∧ ScalarResult s t rd fun z =>
      z = ⟨if u < x then one else 0#64, 0#64⟩)
    ∧ ∃ t, exec (.cmpleRe rd a b) s = .next t ∧ ScalarResult s t rd fun z =>
      z = ⟨if x ≤ u then one else 0#64, 0#64⟩

/-- vmac adds the exact product to the old lane and rounds once. That the product is not rounded before
the addition is the spec's own reading of "Fused" (R206, decision D17; log 18); the direction of the one
rounding and the treatment of a result out of range are its choices, any value of a switch (decisions
D11, D13; log 2) (48_secondary_only.md R206, 40_fixed_point_arithmetic.md R94, R96, notes/assumptions 2,
18). -/
def Obligations.FusedMultiplyAccumulate : Prop :=
  ∀ (s : State) (rd a b : VReg), ∃ t, exec (.vmac rd a b) s = .next t
    ∧ VectorResult s t rd fun k z => IsRounded s.cfg (Unspecified s.cfg)
        ((s.lane rd k).re.toInt * 2 ^ 32 + ((s.lane a k).re.toInt * (s.lane b k).re.toInt
          - (s.lane a k).im.toInt * (s.lane b k).im.toInt))
        ((s.lane rd k).im.toInt * 2 ^ 32 + ((s.lane a k).re.toInt * (s.lane b k).im.toInt
          + (s.lane a k).im.toInt * (s.lane b k).re.toInt)) z

/-- vsload writes one lane, keeps the others, and is illegal for a lane at or past VLEN. The word
recorded for a lane at or past VLEN is the encoding of the term, the model's choice on a case no step
reaches (DESIGN CHOICE, log 12). That vsload is admitted, with R209's decided encoding, is the model's
choice (DESIGN CHOICE, log 21). That a lane at or past VLEN is illegal is the spec's own choice
(decision D31; log 18) (48_secondary_only.md R209, notes/assumptions 12, 18, 21). -/
def Obligations.LoadOneLane : Prop :=
  ∀ (s : State) (rd : VReg) (b : SReg) (i : BitVec 16),
    (i.toNat < s.cfg.vlen → ∃ t, exec (.vsload rd b i) s = .next t
      ∧ VectorResult s t rd fun k z => z = if k = i.toNat then s.readS b else s.lane rd k)
    ∧ (s.cfg.vlen ≤ i.toNat → exec (.vsload rd b i) s
        = .next { s with fault := some (.illegalInstruction (encode (.vsload rd b i))) })

/-- cscale_i multiplies by the real immediate, one rounding per half. The direction of the rounding and
the treatment of a result out of range are the spec's own choices, any value of a switch (decisions D11,
D13; log 2), and so are the packing and the exact widening of the immediate (decision D33; log 18)
(48_secondary_only.md R212, 40_fixed_point_arithmetic.md R94, R96, notes/assumptions 2, 18). -/
def Obligations.ScaleByRealImmediate : Prop :=
  ∀ (s : State) (rd a : SReg) (re : Imm45), ∃ t, exec (.cscaleI rd a re) s = .next t
    ∧ ScalarResult s t rd (IsRounded s.cfg (Unspecified s.cfg)
        ((s.readS a).re.toInt * (re.toInt * 2 ^ 9)) ((s.readS a).im.toInt * (re.toInt * 2 ^ 9)))

/-- A product or sum in range is exact, whatever the overflow settings and the free value. The single
rounding is the spec's own choice (decision D17; log 18), and so are the switches (log 2); the free
value is the model's form of the any-value treatment (log 3) (40_fixed_point_arithmetic.md R93, R94,
R96, R100, R101, 43_rtype_reductions.md R141, R143, 93_implementation_defined.md U5, notes/assumptions
2, 3, 18). -/
def Obligations.ExactInRangeWhateverTheFreeValue : Prop :=
  ∀ (s : State) (ot : OvfTrunc) (ou : OvfUnspec) (n : Nat) (rd a b : BitVec 3),
    let s' : State := { s with cfg := { s.cfg with ovfTrunc := ot, ovfUnspec := ou }, freeCount := n }
    BothScalar (.cadd rd a b) s s' rd (IsSum ExactInRange (s.readS a) (s.readS b))
    ∧ BothScalar (.csub rd a b) s s' rd (IsDifference ExactInRange (s.readS a) (s.readS b))
    ∧ BothScalar (.cmul rd a b) s s' rd (IsProduct s.cfg ExactInRange (s.readS a) (s.readS b))
    ∧ BothVector (.vmul rd a b) s s' rd (fun k =>
        IsProduct s.cfg ExactInRange (s.lane a k) (s.lane b k))
    ∧ BothVector (.vsmul rd a b) s s' rd (fun k =>
        IsProduct s.cfg ExactInRange (s.lane a k) (s.readS b))
    ∧ BothScalar (.dotu rd a b) s s' rd (IsRounded s.cfg ExactInRange
        (∑ k ∈ Finset.range s.cfg.vlen, ((s.lane a k).re.toInt * (s.lane b k).re.toInt
          - (s.lane a k).im.toInt * (s.lane b k).im.toInt))
        (∑ k ∈ Finset.range s.cfg.vlen, ((s.lane a k).re.toInt * (s.lane b k).im.toInt
          + (s.lane a k).im.toInt * (s.lane b k).re.toInt)))
    ∧ BothScalar (.sum rd a) s s' rd (fun z =>
        ExactInRange (∑ k ∈ Finset.range s.cfg.vlen, (s.lane a k).re.toInt) z.re
          ∧ ExactInRange (∑ k ∈ Finset.range s.cfg.vlen, (s.lane a k).im.toInt) z.im)

/-- With wrapping overflow, sum equals adding the lanes one after another modulo 2^64. The one reduction
at the end of a sum is the spec's own choice (decision D17; log 18), and wrapping one value of its
switch (log 2) (95_test_vectors.md section 12 law 7, 43_rtype_reductions.md R143, notes/assumptions 2,
18). -/
def Obligations.SumEqualsChainOfAdds : Prop :=
  ∀ (s : State) (rd : SReg) (a : VReg), s.cfg.ovfUnspec = .wrap → rd ≠ 0#3 →
    ∃ t, exec (.sum rd a) s = .next t
      ∧ (t.readS rd).re = (s.lanes a).foldl (fun acc z => acc + z.re) 0#64
      ∧ (t.readS rd).im = (s.lanes a).foldl (fun acc z => acc + z.im) 0#64

/-- a divided by a is exactly one for every nonzero a. What counts as a zero divisor and the single
rounding are the spec's own choices (decisions D14, D17; log 18) (41_rtype_scalar.md R122,
notes/assumptions 18). -/
def Obligations.QuotientOfEqualsIsOne : Prop :=
  ∀ (s : State) (rd a : SReg), s.readS a ≠ Cplx.zero → rd ≠ 0#3 →
    ∃ t, exec (.cdiv rd a a) s = .next t ∧ t.readS rd = ⟨one64, 0#64⟩

/-- A taken jump to itself repeats for ever: every run of it is at the same state. That any nonzero s1
takes the jump (decision D18), that the target is an unbounded integer (decision D4, log 9) and that
such a jump is a hang and no end (decision D27) are the spec's own choices (log 18) (46_jtype_jump.md
R172, 70_reset_and_hazards.md R267, notes/assumptions 9, 18). -/
def Obligations.JumpToItselfHangs : Prop :=
  ∀ (s : State) (n : Nat), s.fault = none → 0 ≤ s.pc → s.pc < s.progLen →
    decode s.cfg s.fetchWord = .ok (.jrel 0#33) → s.readS 1#3 ≠ Cplx.zero →
    core.run n s = .next s

/-- The 16 bytes of a bank element are its real half, then its imaginary half, each little-endian. Where
the element stands in its bank is R47 (log 13) and not of this statement (R46). -/
def Obligations.ElementImageIsLittleEndian : Prop :=
  ∀ (s : State) (rd : SReg) (mbid : BitVec 4) (x y : BitVec 16) (b : Fin 4) (e : Cplx),
    let at' := elemAddr s.cfg y.toNat x.toNat
    let image (u : State) (z : Cplx) : Prop :=
      (∀ j < 8, u.byte (.bank b) (at' + j) = z.re.extractLsb' (8 * j) 8)
        ∧ (∀ j < 8, u.byte (.bank b) (at' + 8 + j) = z.im.extractLsb' (8 * j) 8)
        ∧ u.read128 (.bank b) at' = z.im ++ z.re
    mbid.toNat = b → x.toNat < s.cfg.side → y.toNat < s.cfg.side →
    image (s.loadElem b y.toNat x.toNat e) e
    ∧ ∃ t, exec (.sldXy rd mbid x y) s = .next t ∧ ScalarResult s t rd (image s)

/-- A step records a fault only outside the program, on a word that is no instruction, or on an
out-of-bounds coordinate. The conditions are the spec's own choices (decisions D4, D6, D7, D20, D21; log
18) (60_exceptions.md R230 to R235, 40_fixed_point_arithmetic.md R108, notes/assumptions 18). -/
def Obligations.OnlyThreeCausesRaise : Prop :=
  ∀ s t : State, step s = .next t → t.fault ≠ none →
    ((s.pc < 0 ∨ (s.progLen : Int) < s.pc) ∧ t.fault = some (.fetchFault s.pc))
    ∨ 0 ≤ s.pc ∧ s.pc < s.progLen
      ∧ (((∃ e, decode s.cfg s.fetchWord = .error e)
          ∧ t.fault = some (.illegalInstruction s.fetchWord))
        ∨ (∃ rd mbid x y, (decode s.cfg s.fetchWord = .ok (.sldXy rd mbid x y)
            ∨ decode s.cfg s.fetchWord = .ok (.sstXy rd mbid x y))
          ∧ (s.cfg.side ≤ y.toNat ∨ s.cfg.side ≤ x.toNat)
          ∧ t.fault = some (.bankBoundsTrap mbid y x))
        ∨ ∃ rd mbid rc idx len, (decode s.cfg s.fetchWord = .ok (.vld rd mbid rc idx len)
            ∨ decode s.cfg s.fetchWord = .ok (.vst rd mbid rc idx len))
          ∧ s.cfg.side ≤ idx.toNat
          ∧ t.fault = some (match rc with
            | .row => .bankBoundsTrap mbid idx 0#16
            | .column => .bankBoundsTrap mbid 0#16 idx))
end

