-- ==== Sys2Proof/Laws/State.lean ====
section
/-! SUPPORT. What each update of State leaves in each field, so that no later proof unfolds an update. -/

namespace Sys2Proof.Machine

@[simp] theorem State.advance_cfg (s : State) : (s.advance).cfg = s.cfg := rfl
@[simp] theorem State.advance_sregs (s : State) : (s.advance).sregs = s.sregs := rfl
@[simp] theorem State.advance_vregs (s : State) : (s.advance).vregs = s.vregs := rfl
@[simp] theorem State.advance_pc (s : State) : (s.advance).pc = s.pc + 1 := rfl
@[simp] theorem State.advance_banks (s : State) : (s.advance).banks = s.banks := rfl
@[simp] theorem State.advance_imem (s : State) : (s.advance).imem = s.imem := rfl
@[simp] theorem State.advance_progLen (s : State) : (s.advance).progLen = s.progLen := rfl
@[simp] theorem State.advance_fault (s : State) : (s.advance).fault = s.fault := rfl
@[simp] theorem State.advance_freeCount (s : State) : (s.advance).freeCount = s.freeCount := rfl

@[simp] theorem State.jump_cfg (s : State) (off : Int) : (s.jump off).cfg = s.cfg := rfl
@[simp] theorem State.jump_sregs (s : State) (off : Int) : (s.jump off).sregs = s.sregs := rfl
@[simp] theorem State.jump_vregs (s : State) (off : Int) : (s.jump off).vregs = s.vregs := rfl
@[simp] theorem State.jump_pc (s : State) (off : Int) : (s.jump off).pc = s.pc + off := rfl
@[simp] theorem State.jump_banks (s : State) (off : Int) : (s.jump off).banks = s.banks := rfl
@[simp] theorem State.jump_imem (s : State) (off : Int) : (s.jump off).imem = s.imem := rfl
@[simp] theorem State.jump_progLen (s : State) (off : Int) : (s.jump off).progLen = s.progLen := rfl
@[simp] theorem State.jump_fault (s : State) (off : Int) : (s.jump off).fault = s.fault := rfl
@[simp] theorem State.jump_freeCount (s : State) (off : Int) : (s.jump off).freeCount = s.freeCount := rfl

@[simp] theorem State.drawn_cfg (s : State) : (s.drawn).cfg = s.cfg := rfl
@[simp] theorem State.drawn_sregs (s : State) : (s.drawn).sregs = s.sregs := rfl
@[simp] theorem State.drawn_vregs (s : State) : (s.drawn).vregs = s.vregs := rfl
@[simp] theorem State.drawn_pc (s : State) : (s.drawn).pc = s.pc := rfl
@[simp] theorem State.drawn_banks (s : State) : (s.drawn).banks = s.banks := rfl
@[simp] theorem State.drawn_imem (s : State) : (s.drawn).imem = s.imem := rfl
@[simp] theorem State.drawn_progLen (s : State) : (s.drawn).progLen = s.progLen := rfl
@[simp] theorem State.drawn_fault (s : State) : (s.drawn).fault = s.fault := rfl
@[simp] theorem State.drawn_freeCount (s : State) : (s.drawn).freeCount = s.freeCount + 1 := rfl

@[simp] theorem State.raise_cfg (s : State) (e : Exception) : (s.raise e).cfg = s.cfg := rfl
@[simp] theorem State.raise_sregs (s : State) (e : Exception) : (s.raise e).sregs = s.sregs := rfl
@[simp] theorem State.raise_vregs (s : State) (e : Exception) : (s.raise e).vregs = s.vregs := rfl
@[simp] theorem State.raise_pc (s : State) (e : Exception) : (s.raise e).pc = s.pc := rfl
@[simp] theorem State.raise_banks (s : State) (e : Exception) : (s.raise e).banks = s.banks := rfl
@[simp] theorem State.raise_imem (s : State) (e : Exception) : (s.raise e).imem = s.imem := rfl
@[simp] theorem State.raise_progLen (s : State) (e : Exception) : (s.raise e).progLen = s.progLen := rfl
@[simp] theorem State.raise_fault (s : State) (e : Exception) : (s.raise e).fault = some e := rfl
@[simp] theorem State.raise_freeCount (s : State) (e : Exception) : (s.raise e).freeCount = s.freeCount := rfl

@[simp] theorem State.raiseIllegal_cfg (s : State) (i : Instr) : (s.raiseIllegal i).cfg = s.cfg := rfl
@[simp] theorem State.raiseIllegal_sregs (s : State) (i : Instr) : (s.raiseIllegal i).sregs = s.sregs := rfl
@[simp] theorem State.raiseIllegal_vregs (s : State) (i : Instr) : (s.raiseIllegal i).vregs = s.vregs := rfl
@[simp] theorem State.raiseIllegal_pc (s : State) (i : Instr) : (s.raiseIllegal i).pc = s.pc := rfl
@[simp] theorem State.raiseIllegal_banks (s : State) (i : Instr) : (s.raiseIllegal i).banks = s.banks := rfl
@[simp] theorem State.raiseIllegal_imem (s : State) (i : Instr) : (s.raiseIllegal i).imem = s.imem := rfl
@[simp] theorem State.raiseIllegal_progLen (s : State) (i : Instr) : (s.raiseIllegal i).progLen = s.progLen := rfl
@[simp] theorem State.raiseIllegal_fault (s : State) (i : Instr) : (s.raiseIllegal i).fault = some (.illegalInstruction (encode i)) := rfl
@[simp] theorem State.raiseIllegal_freeCount (s : State) (i : Instr) : (s.raiseIllegal i).freeCount = s.freeCount := rfl

@[simp] theorem State.writeS_cfg (s : State) (r : SReg) (v : Cplx) : (s.writeS r v).cfg = s.cfg := by
  unfold State.writeS; split <;> rfl
@[simp] theorem State.writeS_vregs (s : State) (r : SReg) (v : Cplx) : (s.writeS r v).vregs = s.vregs := by
  unfold State.writeS; split <;> rfl
@[simp] theorem State.writeS_pc (s : State) (r : SReg) (v : Cplx) : (s.writeS r v).pc = s.pc := by
  unfold State.writeS; split <;> rfl
@[simp] theorem State.writeS_banks (s : State) (r : SReg) (v : Cplx) : (s.writeS r v).banks = s.banks := by
  unfold State.writeS; split <;> rfl
@[simp] theorem State.writeS_imem (s : State) (r : SReg) (v : Cplx) : (s.writeS r v).imem = s.imem := by
  unfold State.writeS; split <;> rfl
@[simp] theorem State.writeS_progLen (s : State) (r : SReg) (v : Cplx) : (s.writeS r v).progLen = s.progLen := by
  unfold State.writeS; split <;> rfl
@[simp] theorem State.writeS_fault (s : State) (r : SReg) (v : Cplx) : (s.writeS r v).fault = s.fault := by
  unfold State.writeS; split <;> rfl
@[simp] theorem State.writeS_freeCount (s : State) (r : SReg) (v : Cplx) : (s.writeS r v).freeCount = s.freeCount := by
  unfold State.writeS; split <;> rfl

@[simp] theorem State.writeV_cfg (s : State) (r : VReg) (f : Nat → Cplx) : (s.writeV r f).cfg = s.cfg := by
  unfold State.writeV; split <;> rfl
@[simp] theorem State.writeV_sregs (s : State) (r : VReg) (f : Nat → Cplx) : (s.writeV r f).sregs = s.sregs := by
  unfold State.writeV; split <;> rfl
@[simp] theorem State.writeV_pc (s : State) (r : VReg) (f : Nat → Cplx) : (s.writeV r f).pc = s.pc := by
  unfold State.writeV; split <;> rfl
@[simp] theorem State.writeV_banks (s : State) (r : VReg) (f : Nat → Cplx) : (s.writeV r f).banks = s.banks := by
  unfold State.writeV; split <;> rfl
@[simp] theorem State.writeV_imem (s : State) (r : VReg) (f : Nat → Cplx) : (s.writeV r f).imem = s.imem := by
  unfold State.writeV; split <;> rfl
@[simp] theorem State.writeV_progLen (s : State) (r : VReg) (f : Nat → Cplx) : (s.writeV r f).progLen = s.progLen := by
  unfold State.writeV; split <;> rfl
@[simp] theorem State.writeV_fault (s : State) (r : VReg) (f : Nat → Cplx) : (s.writeV r f).fault = s.fault := by
  unfold State.writeV; split <;> rfl
@[simp] theorem State.writeV_freeCount (s : State) (r : VReg) (f : Nat → Cplx) : (s.writeV r f).freeCount = s.freeCount := by
  unfold State.writeV; split <;> rfl

@[simp] theorem State.setMem_cfg (s : State) (sp : Space) (m : Memory) : (s.setMem sp m).cfg = s.cfg := by
  cases sp <;> rfl
@[simp] theorem State.setMem_sregs (s : State) (sp : Space) (m : Memory) : (s.setMem sp m).sregs = s.sregs := by
  cases sp <;> rfl
@[simp] theorem State.setMem_vregs (s : State) (sp : Space) (m : Memory) : (s.setMem sp m).vregs = s.vregs := by
  cases sp <;> rfl
@[simp] theorem State.setMem_pc (s : State) (sp : Space) (m : Memory) : (s.setMem sp m).pc = s.pc := by
  cases sp <;> rfl
@[simp] theorem State.setMem_progLen (s : State) (sp : Space) (m : Memory) : (s.setMem sp m).progLen = s.progLen := by
  cases sp <;> rfl
@[simp] theorem State.setMem_fault (s : State) (sp : Space) (m : Memory) : (s.setMem sp m).fault = s.fault := by
  cases sp <;> rfl
@[simp] theorem State.setMem_freeCount (s : State) (sp : Space) (m : Memory) : (s.setMem sp m).freeCount = s.freeCount := by
  cases sp <;> rfl

@[simp] theorem State.write128_cfg (s : State) (sp : Space) (a : Nat) (w : BitVec 128) : (s.write128 sp a w).cfg = s.cfg := by
  exact s.setMem_cfg sp _
@[simp] theorem State.write128_sregs (s : State) (sp : Space) (a : Nat) (w : BitVec 128) : (s.write128 sp a w).sregs = s.sregs := by
  exact s.setMem_sregs sp _
@[simp] theorem State.write128_vregs (s : State) (sp : Space) (a : Nat) (w : BitVec 128) : (s.write128 sp a w).vregs = s.vregs := by
  exact s.setMem_vregs sp _
@[simp] theorem State.write128_pc (s : State) (sp : Space) (a : Nat) (w : BitVec 128) : (s.write128 sp a w).pc = s.pc := by
  exact s.setMem_pc sp _
@[simp] theorem State.write128_progLen (s : State) (sp : Space) (a : Nat) (w : BitVec 128) : (s.write128 sp a w).progLen = s.progLen := by
  exact s.setMem_progLen sp _
@[simp] theorem State.write128_fault (s : State) (sp : Space) (a : Nat) (w : BitVec 128) : (s.write128 sp a w).fault = s.fault := by
  exact s.setMem_fault sp _
@[simp] theorem State.write128_freeCount (s : State) (sp : Space) (a : Nat) (w : BitVec 128) : (s.write128 sp a w).freeCount = s.freeCount := by
  exact s.setMem_freeCount sp _

@[simp] theorem State.bankWrite_cfg (s : State) (b : Fin 4) (r c : Nat) (e : Cplx) : (s.bankWrite b r c e).cfg = s.cfg := by
  exact s.write128_cfg _ _ _
@[simp] theorem State.bankWrite_sregs (s : State) (b : Fin 4) (r c : Nat) (e : Cplx) : (s.bankWrite b r c e).sregs = s.sregs := by
  exact s.write128_sregs _ _ _
@[simp] theorem State.bankWrite_vregs (s : State) (b : Fin 4) (r c : Nat) (e : Cplx) : (s.bankWrite b r c e).vregs = s.vregs := by
  exact s.write128_vregs _ _ _
@[simp] theorem State.bankWrite_pc (s : State) (b : Fin 4) (r c : Nat) (e : Cplx) : (s.bankWrite b r c e).pc = s.pc := by
  exact s.write128_pc _ _ _
@[simp] theorem State.bankWrite_progLen (s : State) (b : Fin 4) (r c : Nat) (e : Cplx) : (s.bankWrite b r c e).progLen = s.progLen := by
  exact s.write128_progLen _ _ _
@[simp] theorem State.bankWrite_fault (s : State) (b : Fin 4) (r c : Nat) (e : Cplx) : (s.bankWrite b r c e).fault = s.fault := by
  exact s.write128_fault _ _ _
@[simp] theorem State.bankWrite_freeCount (s : State) (b : Fin 4) (r c : Nat) (e : Cplx) : (s.bankWrite b r c e).freeCount = s.freeCount := by
  exact s.write128_freeCount _ _ _

@[simp] theorem State.bankWrite_imem (s : State) (b : Fin 4) (r c : Nat) (e : Cplx) :
    (s.bankWrite b r c e).imem = s.imem := rfl

@[simp] theorem State.storeLanes_cfg (s : State) (b : Fin 4) (rc : Access) (idx : Nat) (f : Nat → Cplx) (n : Nat) : (s.storeLanes b rc idx f n).cfg = s.cfg := by
  induction n <;> simp [State.storeLanes, *]
@[simp] theorem State.storeLanes_sregs (s : State) (b : Fin 4) (rc : Access) (idx : Nat) (f : Nat → Cplx) (n : Nat) : (s.storeLanes b rc idx f n).sregs = s.sregs := by
  induction n <;> simp [State.storeLanes, *]
@[simp] theorem State.storeLanes_vregs (s : State) (b : Fin 4) (rc : Access) (idx : Nat) (f : Nat → Cplx) (n : Nat) : (s.storeLanes b rc idx f n).vregs = s.vregs := by
  induction n <;> simp [State.storeLanes, *]
@[simp] theorem State.storeLanes_pc (s : State) (b : Fin 4) (rc : Access) (idx : Nat) (f : Nat → Cplx) (n : Nat) : (s.storeLanes b rc idx f n).pc = s.pc := by
  induction n <;> simp [State.storeLanes, *]
@[simp] theorem State.storeLanes_imem (s : State) (b : Fin 4) (rc : Access) (idx : Nat) (f : Nat → Cplx) (n : Nat) : (s.storeLanes b rc idx f n).imem = s.imem := by
  induction n <;> simp [State.storeLanes, *]
@[simp] theorem State.storeLanes_progLen (s : State) (b : Fin 4) (rc : Access) (idx : Nat) (f : Nat → Cplx) (n : Nat) : (s.storeLanes b rc idx f n).progLen = s.progLen := by
  induction n <;> simp [State.storeLanes, *]
@[simp] theorem State.storeLanes_fault (s : State) (b : Fin 4) (rc : Access) (idx : Nat) (f : Nat → Cplx) (n : Nat) : (s.storeLanes b rc idx f n).fault = s.fault := by
  induction n <;> simp [State.storeLanes, *]
@[simp] theorem State.storeLanes_freeCount (s : State) (b : Fin 4) (rc : Access) (idx : Nat) (f : Nat → Cplx) (n : Nat) : (s.storeLanes b rc idx f n).freeCount = s.freeCount := by
  induction n <;> simp [State.storeLanes, *]

@[simp] theorem State.finishS_cfg (s : State) (rd : BitVec 3) (v : Cplx) : (s.finishS rd v).cfg = s.cfg := by
  simp [State.finishS]
@[simp] theorem State.finishS_sregs (s : State) (rd : BitVec 3) (v : Cplx) : (s.finishS rd v).sregs = (s.writeS rd v).sregs := rfl
@[simp] theorem State.finishS_vregs (s : State) (rd : BitVec 3) (v : Cplx) : (s.finishS rd v).vregs = s.vregs := by
  simp [State.finishS]
@[simp] theorem State.finishS_pc (s : State) (rd : BitVec 3) (v : Cplx) : (s.finishS rd v).pc = s.pc + 1 := by
  simp [State.finishS]
@[simp] theorem State.finishS_banks (s : State) (rd : BitVec 3) (v : Cplx) : (s.finishS rd v).banks = s.banks := by
  simp [State.finishS]
@[simp] theorem State.finishS_imem (s : State) (rd : BitVec 3) (v : Cplx) : (s.finishS rd v).imem = s.imem := by
  simp [State.finishS]
@[simp] theorem State.finishS_progLen (s : State) (rd : BitVec 3) (v : Cplx) : (s.finishS rd v).progLen = s.progLen := by
  simp [State.finishS]
@[simp] theorem State.finishS_fault (s : State) (rd : BitVec 3) (v : Cplx) : (s.finishS rd v).fault = s.fault := by
  simp [State.finishS]
@[simp] theorem State.finishS_freeCount (s : State) (rd : BitVec 3) (v : Cplx) : (s.finishS rd v).freeCount = s.freeCount := by
  simp [State.finishS]

@[simp] theorem State.finishV_cfg (s : State) (rd : BitVec 3) (f : Nat → Cplx) : (s.finishV rd f).cfg = s.cfg := by
  simp [State.finishV]
@[simp] theorem State.finishV_sregs (s : State) (rd : BitVec 3) (f : Nat → Cplx) : (s.finishV rd f).sregs = s.sregs := by
  simp [State.finishV]
@[simp] theorem State.finishV_vregs (s : State) (rd : BitVec 3) (f : Nat → Cplx) : (s.finishV rd f).vregs = (s.writeV rd f).vregs := rfl
@[simp] theorem State.finishV_pc (s : State) (rd : BitVec 3) (f : Nat → Cplx) : (s.finishV rd f).pc = s.pc + 1 := by
  simp [State.finishV]
@[simp] theorem State.finishV_banks (s : State) (rd : BitVec 3) (f : Nat → Cplx) : (s.finishV rd f).banks = s.banks := by
  simp [State.finishV]
@[simp] theorem State.finishV_imem (s : State) (rd : BitVec 3) (f : Nat → Cplx) : (s.finishV rd f).imem = s.imem := by
  simp [State.finishV]
@[simp] theorem State.finishV_progLen (s : State) (rd : BitVec 3) (f : Nat → Cplx) : (s.finishV rd f).progLen = s.progLen := by
  simp [State.finishV]
@[simp] theorem State.finishV_fault (s : State) (rd : BitVec 3) (f : Nat → Cplx) : (s.finishV rd f).fault = s.fault := by
  simp [State.finishV]
@[simp] theorem State.finishV_freeCount (s : State) (rd : BitVec 3) (f : Nat → Cplx) : (s.finishV rd f).freeCount = s.freeCount := by
  simp [State.finishV]

end Sys2Proof.Machine
end

