-- ==== Sys2Proof/Laws/Memory.lean ====
section
/-! SUPPORT. The storages: a read after a write, the canonical form, and the 128-bit image. -/

namespace Sys2Proof.Machine

open Sys2Proof

/-! ### One byte -/

theorem Memory.get?_set (m : Memory) (a x : Nat) (b : Byte) :
    Memory.get? (Memory.set m a b) x = if x = a then some b else Memory.get? m x := by
  induction m with
  | nil => simp [Memory.set, Memory.get?, eq_comm (a := a)]
  | cons cell m ih =>
    obtain ⟨a', b'⟩ := cell
    by_cases h : x = a
    · subst h
      by_cases h1 : x < a'
      · simp [Memory.set, Memory.get?, h1]
      · by_cases h2 : x = a'
        · simp [Memory.set, Memory.get?, h2]
        · have h3 : ¬ a' = x := fun e => h2 e.symm
          simp [Memory.set, Memory.get?, h1, h2, h3, ih]
    · have h' : ¬ a = x := fun e => h e.symm
      by_cases h1 : a < a'
      · simp [Memory.set, Memory.get?, h1, h, h']
      · by_cases h2 : a = a'
        · subst h2; simp [Memory.set, Memory.get?, h, h']
        · simp [Memory.set, Memory.get?, h1, h2, h, ih]

theorem Memory.risesFrom_set (m : Memory) (lo : Option Nat) (a : Nat) (b : Byte)
    (hm : Memory.risesFrom lo m = true) (ha : ∀ l, lo = some l → l < a) :
    Memory.risesFrom lo (Memory.set m a b) = true := by
  induction m generalizing lo with
  | nil => cases lo <;> simp_all [Memory.set, Memory.risesFrom]
  | cons cell m ih =>
    obtain ⟨a', b'⟩ := cell
    have tail : Memory.risesFrom (some a') m = true := by
      cases lo <;> simp_all [Memory.risesFrom]
    have head : ∀ l, lo = some l → l < a' := by
      intro l e; subst e; simp_all [Memory.risesFrom]
    by_cases h1 : a < a'
    · cases lo <;> simp_all [Memory.set, Memory.risesFrom]
    · by_cases h2 : a = a'
      · subst h2; cases lo <;> simp_all [Memory.set, Memory.risesFrom]
      · have h3 : a' < a := by omega
        have h4 := ih (some a') tail (by intro l e; cases e; exact h3)
        rw [Memory.set, if_neg h1, if_neg h2]
        cases lo with
        | none => exact h4
        | some l => simp [Memory.risesFrom, head l rfl, h4]

/-- A write keeps the canonical form. -/
theorem Memory.wf_set (m : Memory) (a : Nat) (b : Byte) (hm : Memory.wf m = true) :
    Memory.wf (Memory.set m a b) = true :=
  Memory.risesFrom_set m none a b hm (by simp)

theorem Memory.within_set (size : Nat) (m : Memory) (a : Nat) (b : Byte)
    (hm : Memory.within size m = true) (ha : a < size) :
    Memory.within size (Memory.set m a b) = true := by
  induction m with
  | nil => simp [Memory.set, Memory.within, ha]
  | cons cell m ih =>
    obtain ⟨a', b'⟩ := cell
    simp only [Memory.within, List.all_cons, Bool.and_eq_true, decide_eq_true_eq] at hm ih ⊢
    unfold Memory.set
    split
    · simp [ha, hm.1, hm.2]
    · split
      · simp [ha, hm.2]
      · simp [hm.1, ih hm.2]

theorem Memory.get?_eq_none_of_risesFrom (m : Memory) (lo x : Nat)
    (hm : Memory.risesFrom (some lo) m = true) (hx : x ≤ lo) : Memory.get? m x = none := by
  induction m generalizing lo with
  | nil => rfl
  | cons cell m ih =>
    obtain ⟨a', b'⟩ := cell
    simp only [Memory.risesFrom, Bool.and_eq_true, decide_eq_true_eq] at hm
    have h : ¬ a' = x := by omega
    simp [Memory.get?, h, ih a' hm.2 (by omega)]

theorem Memory.risesFrom_ext (m m' : Memory) (lo lo' : Option Nat) (hm : Memory.risesFrom lo m = true)
    (hm' : Memory.risesFrom lo' m' = true) (h : ∀ x, Memory.get? m x = Memory.get? m' x) : m = m' := by
  have tails : ∀ (lo : Option Nat) a b (m : Memory),
      Memory.risesFrom lo ((a, b) :: m) = true → Memory.risesFrom (some a) m = true := by
    intro lo a b m h; cases lo <;> simp_all [Memory.risesFrom]
  induction m generalizing m' lo lo' with
  | nil =>
    cases m' with
    | nil => rfl
    | cons cell m' => have := h cell.1; simp [Memory.get?] at this
  | cons cell m ih =>
    obtain ⟨a, b⟩ := cell
    cases m' with
    | nil => have := h a; simp [Memory.get?] at this
    | cons cell' m' =>
      obtain ⟨a', b'⟩ := cell'
      have t := tails _ _ _ _ hm
      have t' := tails _ _ _ _ hm'
      have e : a = a' := by
        rcases Nat.lt_trichotomy a a' with g | g | g
        · have g' : ¬ a' = a := by omega
          have := h a
          simp [Memory.get?, g', Memory.get?_eq_none_of_risesFrom m' a' a t' (by omega)] at this
        · exact g
        · have g' : ¬ a = a' := by omega
          have := h a'
          simp [Memory.get?, g', Memory.get?_eq_none_of_risesFrom m a a' t (by omega)] at this
      subst e
      have eb : b = b' := by simpa [Memory.get?] using h a
      subst eb
      have em : m = m' := by
        refine ih m' (some a) (some a) t t' fun x => ?_
        by_cases g : a = x
        · subst g
          rw [Memory.get?_eq_none_of_risesFrom m a a t (le_refl _),
            Memory.get?_eq_none_of_risesFrom m' a a t' (le_refl _)]
        · simpa [Memory.get?, g] using h x
      rw [em]

/-- The canonical form: storages that read the same at every address are the same data. -/
theorem Memory.ext_of_wf (m m' : Memory) (hm : Memory.wf m = true) (hm' : Memory.wf m' = true)
    (h : ∀ x, Memory.get? m x = Memory.get? m' x) : m = m' :=
  Memory.risesFrom_ext m m' none none hm hm' h

/-! ### The 128-bit image -/

theorem Memory.get?_setBytes (m : Memory) (a x n : Nat) (w : BitVec 128) :
    Memory.get? (Memory.setBytes m a w n) x =
      if a ≤ x ∧ x < a + n then some (wordByte w (x - a)) else Memory.get? m x := by
  induction n with
  | zero =>
    have : ¬ (a ≤ x ∧ x < a + 0) := by omega
    simp only [Memory.setBytes, this, if_false]
  | succ n ih =>
    rw [Memory.setBytes, Memory.get?_set, ih]
    by_cases h : x = a + n
    · subst h; simp
    · by_cases h1 : a ≤ x ∧ x < a + n
      · have h2 : a ≤ x ∧ x < a + (n + 1) := by omega
        rw [if_neg h, if_pos h1, if_pos h2]
      · have h2 : ¬ (a ≤ x ∧ x < a + (n + 1)) := by omega
        rw [if_neg h, if_neg h1, if_neg h2]

theorem Memory.wf_setBytes (m : Memory) (a n : Nat) (w : BitVec 128) (hm : Memory.wf m = true) :
    Memory.wf (Memory.setBytes m a w n) = true := by
  induction n with
  | zero => exact hm
  | succ n ih => exact Memory.wf_set _ _ _ ih

theorem Memory.within_setBytes (size : Nat) (m : Memory) (a n : Nat) (w : BitVec 128)
    (hm : Memory.within size m = true) (ha : a + n ≤ size) :
    Memory.within size (Memory.setBytes m a w n) = true := by
  induction n with
  | zero => exact hm
  | succ n ih => exact Memory.within_set _ _ _ _ (ih (by omega)) (by omega)

theorem wordOfBytes_congr (f g : Nat → Byte) (h : ∀ j < 16, f j = g j) :
    wordOfBytes f = wordOfBytes g := by
  unfold wordOfBytes
  rw [h 15 (by omega), h 14 (by omega), h 13 (by omega), h 12 (by omega), h 11 (by omega),
    h 10 (by omega), h 9 (by omega), h 8 (by omega), h 7 (by omega), h 6 (by omega), h 5 (by omega),
    h 4 (by omega), h 3 (by omega), h 2 (by omega), h 1 (by omega), h 0 (by omega)]

theorem wordOfBytes_wordByte (w : BitVec 128) : wordOfBytes (wordByte w) = w := by
  unfold wordOfBytes wordByte
  simp only [Nat.reduceMul]
  iterate 15 rw [BitVec.extractLsb'_append_extractLsb'_eq_extractLsb' (by rfl)]
  simp

/-- A byte of the image of the value that 16 bytes form is that byte. -/
theorem wordByte_wordOfBytes (f : Nat → Byte) (j : Nat) (hj : j < 16) :
    wordByte (wordOfBytes f) j = f j := by
  unfold wordByte wordOfBytes
  interval_cases j <;> (
    iterate 15 try refine (BitVec.extractLsb'_append_eq_of_le (by decide)).trans ?_
    first
      | exact BitVec.extractLsb'_eq_self
      | exact (BitVec.extractLsb'_append_eq_of_add_le (by decide)).trans BitVec.extractLsb'_eq_self)

@[simp] theorem cplxOfBits_cplxBits (z : Cplx) : cplxOfBits (cplxBits z) = z := by
  have h1 : (z.im ++ z.re).extractLsb' 0 64 = z.re := by
    exact (BitVec.extractLsb'_append_eq_of_add_le (by decide)).trans (by simp)
  have h2 : (z.im ++ z.re).extractLsb' 64 64 = z.im := by
    exact (BitVec.extractLsb'_append_eq_of_le (by decide)).trans (by simp)
  obtain ⟨re, im⟩ := z
  simp only [cplxOfBits, cplxBits, Cplx.mk.injEq]
  exact ⟨h1, h2⟩

/-! ### Storages of a state -/

@[simp] theorem State.mem_setMem_same (s : State) (sp : Space) (m : Memory) : (s.setMem sp m).mem sp = m := by
  cases sp <;> simp [State.setMem, State.mem]

theorem State.mem_setMem_other (s : State) (sp sp' : Space) (m : Memory) (h : sp' ≠ sp) :
    (s.setMem sp m).mem sp' = s.mem sp' := by
  cases sp with
  | imem => cases sp' with
    | imem => exact absurd rfl h
    | bank b' => rfl
  | bank b => cases sp' with
    | imem => rfl
    | bank b' =>
      have : ¬ (b : Nat) = (b' : Nat) := fun e => h (by rw [Fin.ext e])
      simp [State.setMem, State.mem, this]

/-- What a 128-bit write does to every byte of every storage. -/
theorem State.byte_write128 (s : State) (sp sp' : Space) (a x : Nat) (w : BitVec 128) :
    (s.write128 sp a w).byte sp' x =
      if sp' = sp ∧ a ≤ x ∧ x < a + 16 then wordByte w (x - a) else s.byte sp' x := by
  unfold State.byte State.write128
  by_cases h : sp' = sp
  · subst h
    rw [State.mem_setMem_same, Memory.get?_setBytes]
    by_cases g : a ≤ x ∧ x < a + 16 <;> simp [g]
  · rw [State.mem_setMem_other _ _ _ _ h]
    simp [h]

theorem State.read128_write128_same (s : State) (sp : Space) (a : Nat) (w : BitVec 128) :
    (s.write128 sp a w).read128 sp a = w := by
  have h : ∀ j < 16, (s.write128 sp a w).byte sp (a + j) = wordByte w j := by
    intro j hj
    have : a ≤ a + j ∧ a + j < a + 16 := by omega
    rw [State.byte_write128, if_pos ⟨rfl, this⟩, Nat.add_sub_cancel_left]
  exact (wordOfBytes_congr _ _ h).trans (wordOfBytes_wordByte w)

/-- Two states that agree on 16 bytes read the same value there. -/
theorem State.read128_congr (s t : State) (sp : Space) (a : Nat)
    (h : ∀ j < 16, t.byte sp (a + j) = s.byte sp (a + j)) : t.read128 sp a = s.read128 sp a :=
  wordOfBytes_congr _ _ h

theorem State.read128_write128_other (s : State) (sp sp' : Space) (a a' : Nat) (w : BitVec 128)
    (h : sp' ≠ sp ∨ a' + 16 ≤ a ∨ a + 16 ≤ a') :
    (s.write128 sp a w).read128 sp' a' = s.read128 sp' a' := by
  refine State.read128_congr _ _ _ _ fun j hj => ?_
  rw [State.byte_write128, if_neg]
  rintro ⟨h1, h2, h3⟩
  rcases h with h | h
  · exact h h1
  · omega

/-- Different elements of a bank have images that do not meet (20_memory R47). -/
theorem elemAddr_apart (cfg : Config) (r c r' c' : Nat) (hc : c < cfg.side) (hc' : c' < cfg.side)
    (h : ¬ (r = r' ∧ c = c')) :
    elemAddr cfg r c + 16 ≤ elemAddr cfg r' c' ∨ elemAddr cfg r' c' + 16 ≤ elemAddr cfg r c := by
  unfold elemAddr
  rcases Nat.lt_trichotomy r r' with g | g | g
  · left
    have : (r + 1) * cfg.side ≤ r' * cfg.side := Nat.mul_le_mul_right _ g
    rw [Nat.add_mul] at this
    omega
  · subst g; omega
  · right
    have : (r' + 1) * cfg.side ≤ r * cfg.side := Nat.mul_le_mul_right _ g
    rw [Nat.add_mul] at this
    omega

/-- An element inside its bank has its image inside the bank's. -/
theorem elemAddr_bound (cfg : Config) (r c : Nat) (hr : r < cfg.side) (hc : c < cfg.side) :
    elemAddr cfg r c + 16 ≤ 16 * (cfg.side * cfg.side) := by
  unfold elemAddr
  have : (r + 1) * cfg.side ≤ cfg.side * cfg.side := Nat.mul_le_mul_right _ hr
  rw [Nat.add_mul] at this
  omega

theorem State.bankRead_bankWrite_same (s : State) (b : Fin 4) (r c : Nat) (e : Cplx) :
    (s.bankWrite b r c e).bankRead b r c = e := by
  unfold State.bankRead State.bankWrite
  rw [State.write128_cfg, State.read128_write128_same, cplxOfBits_cplxBits]

theorem State.bankRead_bankWrite_other (s : State) (b b' : Fin 4) (r c r' c' : Nat) (e : Cplx)
    (hc : c < s.cfg.side) (hc' : c' < s.cfg.side) (h : ¬ (b' = b ∧ r' = r ∧ c' = c)) :
    (s.bankWrite b r c e).bankRead b' r' c' = s.bankRead b' r' c' := by
  unfold State.bankRead State.bankWrite
  rw [State.write128_cfg, State.read128_write128_other]
  by_cases hb : b' = b
  · right
    exact elemAddr_apart s.cfg r' c' r c hc' hc fun g => h ⟨hb, g⟩
  · left
    intro g; cases g; exact hb rfl

/-- Writing an element keeps every bank canonical and inside its size. -/
theorem State.mem_bankWrite (s : State) (b b' : Fin 4) (r c : Nat) (e : Cplx) (hr : r < s.cfg.side)
    (hc : c < s.cfg.side)
    (h : Memory.wf s.banks[b'] = true ∧ Memory.within (16 * (s.cfg.side * s.cfg.side)) s.banks[b'] = true) :
    Memory.wf (s.bankWrite b r c e).banks[b'] = true
      ∧ Memory.within (16 * (s.cfg.side * s.cfg.side)) (s.bankWrite b r c e).banks[b'] = true := by
  unfold State.bankWrite State.write128
  by_cases g : b' = b
  · subst g
    have k := State.mem_setMem_same s (.bank b')
      (Memory.setBytes (s.mem (.bank b')) (elemAddr s.cfg r c) (cplxBits e) 16)
    simp only [State.mem] at k ⊢
    rw [k]
    exact ⟨Memory.wf_setBytes _ _ _ _ h.1,
      Memory.within_setBytes _ _ _ _ _ h.2 (elemAddr_bound s.cfg r c hr hc)⟩
  · have k := State.mem_setMem_other s (.bank b) (.bank b')
      (Memory.setBytes (s.mem (.bank b)) (elemAddr s.cfg r c) (cplxBits e) 16)
      (fun e => g (Space.bank.inj e))
    simp only [State.mem] at k ⊢
    rw [k]
    exact h

end Sys2Proof.Machine
end

