-- ==== Sys2Proof/Laws/Bank.lean ====
section
/-! SUPPORT. Storing the lanes of a vector along a row or a column of a bank (47 R183, R185), and the bank a
field names. -/

namespace Sys2Proof.Machine

open Sys2Proof

/-- A bank number below 4 names its bank (47 R182). -/
theorem bankOf_eq_some (mbid : BitVec 4) (b : Fin 4) (h : mbid.toNat = b) : bankOf mbid = some b := by
  unfold bankOf
  rw [dif_pos (by omega)]
  exact congrArg some (Fin.ext h)

/-- `SIDE` is a multiple of `VLEN`, so a bank that has any row has a row as long as a vector. -/
theorem vlen_le_side (c : Config) (idx : Nat) (h : idx < c.side) : c.vlen ≤ c.side := by
  unfold Config.side at *
  rcases Nat.eq_zero_or_pos c.n with g | g
  · rw [g] at h; omega
  · nlinarith

/-- The coordinates of a lane lie inside the bank when the row or column index does (47 R183). -/
theorem laneCoord_inside (c : Config) (rc : Access) (idx k : Nat) (hi : idx < c.side) (hk : k < c.vlen) :
    (laneCoord rc idx k).1 < c.side ∧ (laneCoord rc idx k).2 < c.side := by
  have := vlen_le_side c idx hi
  cases rc <;> simp only [laneCoord] <;> omega

/-- Different lanes of one pattern are different elements (47 R183). -/
theorem laneCoord_ne (rc : Access) (idx k k' : Nat) (h : k ≠ k') :
    ¬ ((laneCoord rc idx k).1 = (laneCoord rc idx k').1
      ∧ (laneCoord rc idx k).2 = (laneCoord rc idx k').2) := by
  cases rc <;> simp only [laneCoord] <;> omega

/-- Storing lanes leaves every byte outside the stored elements. -/
theorem State.byte_storeLanes_outside (s : State) (b : Fin 4) (rc : Access) (idx : Nat) (f : Nat → Cplx)
    (n : Nat) (sp : Space) (a : Nat)
    (h : ¬ ∃ k < n, ElementBytes s.cfg b (laneCoord rc idx k).1 (laneCoord rc idx k).2 sp a) :
    (s.storeLanes b rc idx f n).byte sp a = s.byte sp a := by
  induction n with
  | zero => rfl
  | succ n ih =>
    unfold State.storeLanes State.bankWrite
    rw [State.byte_write128, if_neg, ih]
    · rintro ⟨k, hk, e⟩; exact h ⟨k, by omega, e⟩
    · rw [State.storeLanes_cfg]; intro e; exact h ⟨n, by omega, e⟩

/-- Every stored lane reads back from its element. -/
theorem State.bankRead_storeLanes (s : State) (b : Fin 4) (rc : Access) (idx : Nat) (f : Nat → Cplx)
    (n k : Nat) (hi : idx < s.cfg.side) (hn : n ≤ s.cfg.vlen) (hk : k < n) :
    (s.storeLanes b rc idx f n).bankRead b (laneCoord rc idx k).1 (laneCoord rc idx k).2 = f k := by
  induction n with
  | zero => omega
  | succ n ih =>
    unfold State.storeLanes
    by_cases e : k = n
    · subst e; exact State.bankRead_bankWrite_same ..
    · rw [State.bankRead_bankWrite_other]
      · exact ih (by omega) (by omega)
      · rw [State.storeLanes_cfg]; exact (laneCoord_inside _ rc idx n hi (by omega)).2
      · rw [State.storeLanes_cfg]; exact (laneCoord_inside _ rc idx k hi (by omega)).2
      · exact fun g => laneCoord_ne rc idx k n e g.2

/-- Storing lanes keeps every storage canonical and inside its size. -/
theorem State.mem_storeLanes (s : State) (b b' : Fin 4) (rc : Access) (idx : Nat) (f : Nat → Cplx) (n : Nat)
    (hi : idx < s.cfg.side) (hn : n ≤ s.cfg.vlen)
    (h : Memory.wf s.banks[b'] = true ∧ Memory.within (16 * (s.cfg.side * s.cfg.side)) s.banks[b'] = true) :
    Memory.wf (s.storeLanes b rc idx f n).banks[b'] = true
      ∧ Memory.within (16 * (s.cfg.side * s.cfg.side)) (s.storeLanes b rc idx f n).banks[b'] = true := by
  induction n with
  | zero => exact h
  | succ n ih =>
    have g := laneCoord_inside s.cfg rc idx n hi (by omega)
    have e := State.mem_bankWrite (s.storeLanes b rc idx f n) b b' (laneCoord rc idx n).1
      (laneCoord rc idx n).2 (f n) (by rw [State.storeLanes_cfg]; exact g.1)
      (by rw [State.storeLanes_cfg]; exact g.2)
    rw [State.storeLanes_cfg] at e
    exact e (ih (by omega) h)

end Sys2Proof.Machine
end

