-- ==== Sys2Proof/Laws/Encoding.lean ====
section
/-! SUPPORT. The fields of the four instruction formats: each field of a packed word is what was packed
there (30_encoding R62 to R66, 48 R222). -/

namespace Sys2Proof

@[simp] theorem opcodeOf_packR (sub : BitVec 8) (m : BitVec 2) (rd rs1 rs2 : BitVec 3) (imm : BitVec 16) :
    opcodeOf (packR sub m rd rs1 rs2 imm) = 0x01#8 := by
  refine (BitVec.extractLsb'_append_eq_of_le (by decide)).trans ?_
  refine (BitVec.extractLsb'_append_eq_of_le (by decide)).trans ?_
  refine (BitVec.extractLsb'_append_eq_of_le (by decide)).trans ?_
  refine (BitVec.extractLsb'_append_eq_of_le (by decide)).trans ?_
  refine (BitVec.extractLsb'_append_eq_of_le (by decide)).trans ?_
  refine (BitVec.extractLsb'_append_eq_of_le (by decide)).trans ?_
  refine (BitVec.extractLsb'_append_eq_of_le (by decide)).trans ?_
  refine (BitVec.extractLsb'_append_eq_of_le (by decide)).trans ?_
  simp
@[simp] theorem subopOf_packR (sub : BitVec 8) (m : BitVec 2) (rd rs1 rs2 : BitVec 3) (imm : BitVec 16) :
    subopOf (packR sub m rd rs1 rs2 imm) = sub := by
  refine (BitVec.extractLsb'_append_eq_of_le (by decide)).trans ?_
  refine (BitVec.extractLsb'_append_eq_of_le (by decide)).trans ?_
  refine (BitVec.extractLsb'_append_eq_of_le (by decide)).trans ?_
  refine (BitVec.extractLsb'_append_eq_of_le (by decide)).trans ?_
  refine (BitVec.extractLsb'_append_eq_of_le (by decide)).trans ?_
  refine (BitVec.extractLsb'_append_eq_of_le (by decide)).trans ?_
  refine (BitVec.extractLsb'_append_eq_of_le (by decide)).trans ?_
  exact (BitVec.extractLsb'_append_eq_of_add_le (by decide)).trans (by simp)
@[simp] theorem mappingOf_packR (sub : BitVec 8) (m : BitVec 2) (rd rs1 rs2 : BitVec 3) (imm : BitVec 16) :
    mappingOf (packR sub m rd rs1 rs2 imm) = m := by
  refine (BitVec.extractLsb'_append_eq_of_le (by decide)).trans ?_
  refine (BitVec.extractLsb'_append_eq_of_le (by decide)).trans ?_
  refine (BitVec.extractLsb'_append_eq_of_le (by decide)).trans ?_
  refine (BitVec.extractLsb'_append_eq_of_le (by decide)).trans ?_
  refine (BitVec.extractLsb'_append_eq_of_le (by decide)).trans ?_
  exact (BitVec.extractLsb'_append_eq_of_add_le (by decide)).trans (by simp)
@[simp] theorem flagsHighOf_packR (sub : BitVec 8) (m : BitVec 2) (rd rs1 rs2 : BitVec 3) (imm : BitVec 16) :
    flagsHighOf (packR sub m rd rs1 rs2 imm) = 0#14 := by
  refine (BitVec.extractLsb'_append_eq_of_le (by decide)).trans ?_
  refine (BitVec.extractLsb'_append_eq_of_le (by decide)).trans ?_
  refine (BitVec.extractLsb'_append_eq_of_le (by decide)).trans ?_
  refine (BitVec.extractLsb'_append_eq_of_le (by decide)).trans ?_
  refine (BitVec.extractLsb'_append_eq_of_le (by decide)).trans ?_
  refine (BitVec.extractLsb'_append_eq_of_le (by decide)).trans ?_
  exact (BitVec.extractLsb'_append_eq_of_add_le (by decide)).trans (by simp)
@[simp] theorem rdOf_packR (sub : BitVec 8) (m : BitVec 2) (rd rs1 rs2 : BitVec 3) (imm : BitVec 16) :
    rdOf (packR sub m rd rs1 rs2 imm) = rd := by
  refine (BitVec.extractLsb'_append_eq_of_le (by decide)).trans ?_
  refine (BitVec.extractLsb'_append_eq_of_le (by decide)).trans ?_
  refine (BitVec.extractLsb'_append_eq_of_le (by decide)).trans ?_
  refine (BitVec.extractLsb'_append_eq_of_le (by decide)).trans ?_
  exact (BitVec.extractLsb'_append_eq_of_add_le (by decide)).trans (by simp)
@[simp] theorem rs1Of_packR (sub : BitVec 8) (m : BitVec 2) (rd rs1 rs2 : BitVec 3) (imm : BitVec 16) :
    rs1Of (packR sub m rd rs1 rs2 imm) = rs1 := by
  refine (BitVec.extractLsb'_append_eq_of_le (by decide)).trans ?_
  refine (BitVec.extractLsb'_append_eq_of_le (by decide)).trans ?_
  refine (BitVec.extractLsb'_append_eq_of_le (by decide)).trans ?_
  exact (BitVec.extractLsb'_append_eq_of_add_le (by decide)).trans (by simp)
@[simp] theorem rs2Of_packR (sub : BitVec 8) (m : BitVec 2) (rd rs1 rs2 : BitVec 3) (imm : BitVec 16) :
    rs2Of (packR sub m rd rs1 rs2 imm) = rs2 := by
  refine (BitVec.extractLsb'_append_eq_of_le (by decide)).trans ?_
  refine (BitVec.extractLsb'_append_eq_of_le (by decide)).trans ?_
  exact (BitVec.extractLsb'_append_eq_of_add_le (by decide)).trans (by simp)
@[simp] theorem imm16Of_packR (sub : BitVec 8) (m : BitVec 2) (rd rs1 rs2 : BitVec 3) (imm : BitVec 16) :
    imm16Of (packR sub m rd rs1 rs2 imm) = imm := by
  refine (BitVec.extractLsb'_append_eq_of_le (by decide)).trans ?_
  exact (BitVec.extractLsb'_append_eq_of_add_le (by decide)).trans (by simp)
@[simp] theorem reservedROf_packR (sub : BitVec 8) (m : BitVec 2) (rd rs1 rs2 : BitVec 3) (imm : BitVec 16) :
    reservedROf (packR sub m rd rs1 rs2 imm) = 0#71 := by
  exact (BitVec.extractLsb'_append_eq_of_add_le (by decide)).trans (by simp)

@[simp] theorem opcodeOf_packI (sub : BitVec 8) (rd rs1 : BitVec 3) (re im : Imm45) :
    opcodeOf (packI sub rd rs1 re im) = 0x02#8 := by
  refine (BitVec.extractLsb'_append_eq_of_le (by decide)).trans ?_
  refine (BitVec.extractLsb'_append_eq_of_le (by decide)).trans ?_
  refine (BitVec.extractLsb'_append_eq_of_le (by decide)).trans ?_
  refine (BitVec.extractLsb'_append_eq_of_le (by decide)).trans ?_
  refine (BitVec.extractLsb'_append_eq_of_le (by decide)).trans ?_
  refine (BitVec.extractLsb'_append_eq_of_le (by decide)).trans ?_
  simp
@[simp] theorem subopOf_packI (sub : BitVec 8) (rd rs1 : BitVec 3) (re im : Imm45) :
    subopOf (packI sub rd rs1 re im) = sub := by
  refine (BitVec.extractLsb'_append_eq_of_le (by decide)).trans ?_
  refine (BitVec.extractLsb'_append_eq_of_le (by decide)).trans ?_
  refine (BitVec.extractLsb'_append_eq_of_le (by decide)).trans ?_
  refine (BitVec.extractLsb'_append_eq_of_le (by decide)).trans ?_
  refine (BitVec.extractLsb'_append_eq_of_le (by decide)).trans ?_
  exact (BitVec.extractLsb'_append_eq_of_add_le (by decide)).trans (by simp)
@[simp] theorem flagsOf_packI (sub : BitVec 8) (rd rs1 : BitVec 3) (re im : Imm45) :
    flagsOf (packI sub rd rs1 re im) = 0#16 := by
  refine (BitVec.extractLsb'_append_eq_of_le (by decide)).trans ?_
  refine (BitVec.extractLsb'_append_eq_of_le (by decide)).trans ?_
  refine (BitVec.extractLsb'_append_eq_of_le (by decide)).trans ?_
  refine (BitVec.extractLsb'_append_eq_of_le (by decide)).trans ?_
  exact (BitVec.extractLsb'_append_eq_of_add_le (by decide)).trans (by simp)
@[simp] theorem rdOf_packI (sub : BitVec 8) (rd rs1 : BitVec 3) (re im : Imm45) :
    rdOf (packI sub rd rs1 re im) = rd := by
  refine (BitVec.extractLsb'_append_eq_of_le (by decide)).trans ?_
  refine (BitVec.extractLsb'_append_eq_of_le (by decide)).trans ?_
  refine (BitVec.extractLsb'_append_eq_of_le (by decide)).trans ?_
  exact (BitVec.extractLsb'_append_eq_of_add_le (by decide)).trans (by simp)
@[simp] theorem rs1Of_packI (sub : BitVec 8) (rd rs1 : BitVec 3) (re im : Imm45) :
    rs1Of (packI sub rd rs1 re im) = rs1 := by
  refine (BitVec.extractLsb'_append_eq_of_le (by decide)).trans ?_
  refine (BitVec.extractLsb'_append_eq_of_le (by decide)).trans ?_
  exact (BitVec.extractLsb'_append_eq_of_add_le (by decide)).trans (by simp)
@[simp] theorem immReOf_packI (sub : BitVec 8) (rd rs1 : BitVec 3) (re im : Imm45) :
    immReOf (packI sub rd rs1 re im) = re := by
  refine (BitVec.extractLsb'_append_eq_of_le (by decide)).trans ?_
  exact (BitVec.extractLsb'_append_eq_of_add_le (by decide)).trans (by simp)
@[simp] theorem immImOf_packI (sub : BitVec 8) (rd rs1 : BitVec 3) (re im : Imm45) :
    immImOf (packI sub rd rs1 re im) = im := by
  exact (BitVec.extractLsb'_append_eq_of_add_le (by decide)).trans (by simp)

@[simp] theorem opcodeOf_packJ (sub : BitVec 8) (offs33 : BitVec 33) :
    opcodeOf (packJ sub offs33) = 0x03#8 := by
  refine (BitVec.extractLsb'_append_eq_of_le (by decide)).trans ?_
  refine (BitVec.extractLsb'_append_eq_of_le (by decide)).trans ?_
  refine (BitVec.extractLsb'_append_eq_of_le (by decide)).trans ?_
  refine (BitVec.extractLsb'_append_eq_of_le (by decide)).trans ?_
  refine (BitVec.extractLsb'_append_eq_of_le (by decide)).trans ?_
  simp
@[simp] theorem subopOf_packJ (sub : BitVec 8) (offs33 : BitVec 33) :
    subopOf (packJ sub offs33) = sub := by
  refine (BitVec.extractLsb'_append_eq_of_le (by decide)).trans ?_
  refine (BitVec.extractLsb'_append_eq_of_le (by decide)).trans ?_
  refine (BitVec.extractLsb'_append_eq_of_le (by decide)).trans ?_
  refine (BitVec.extractLsb'_append_eq_of_le (by decide)).trans ?_
  exact (BitVec.extractLsb'_append_eq_of_add_le (by decide)).trans (by simp)
@[simp] theorem flagsOf_packJ (sub : BitVec 8) (offs33 : BitVec 33) :
    flagsOf (packJ sub offs33) = 0#16 := by
  refine (BitVec.extractLsb'_append_eq_of_le (by decide)).trans ?_
  refine (BitVec.extractLsb'_append_eq_of_le (by decide)).trans ?_
  refine (BitVec.extractLsb'_append_eq_of_le (by decide)).trans ?_
  exact (BitVec.extractLsb'_append_eq_of_add_le (by decide)).trans (by simp)
@[simp] theorem rdOf_packJ (sub : BitVec 8) (offs33 : BitVec 33) :
    rdOf (packJ sub offs33) = 1#3 := by
  refine (BitVec.extractLsb'_append_eq_of_le (by decide)).trans ?_
  refine (BitVec.extractLsb'_append_eq_of_le (by decide)).trans ?_
  exact (BitVec.extractLsb'_append_eq_of_add_le (by decide)).trans (by simp)
@[simp] theorem offs33Of_packJ (sub : BitVec 8) (offs33 : BitVec 33) :
    offs33Of (packJ sub offs33) = offs33 := by
  refine (BitVec.extractLsb'_append_eq_of_le (by decide)).trans ?_
  exact (BitVec.extractLsb'_append_eq_of_add_le (by decide)).trans (by simp)
@[simp] theorem reservedJOf_packJ (sub : BitVec 8) (offs33 : BitVec 33) :
    reservedJOf (packJ sub offs33) = 0#60 := by
  exact (BitVec.extractLsb'_append_eq_of_add_le (by decide)).trans (by simp)

@[simp] theorem opcodeOf_packS (sub : BitVec 8) (rc : BitVec 1) (rd : BitVec 3) (mbid : BitVec 4) (i16 j16 len16 : BitVec 16) :
    opcodeOf (packS sub rc rd mbid i16 j16 len16) = 0x04#8 := by
  refine (BitVec.extractLsb'_append_eq_of_le (by decide)).trans ?_
  refine (BitVec.extractLsb'_append_eq_of_le (by decide)).trans ?_
  refine (BitVec.extractLsb'_append_eq_of_le (by decide)).trans ?_
  refine (BitVec.extractLsb'_append_eq_of_le (by decide)).trans ?_
  refine (BitVec.extractLsb'_append_eq_of_le (by decide)).trans ?_
  refine (BitVec.extractLsb'_append_eq_of_le (by decide)).trans ?_
  refine (BitVec.extractLsb'_append_eq_of_le (by decide)).trans ?_
  refine (BitVec.extractLsb'_append_eq_of_le (by decide)).trans ?_
  refine (BitVec.extractLsb'_append_eq_of_le (by decide)).trans ?_
  simp
@[simp] theorem subopOf_packS (sub : BitVec 8) (rc : BitVec 1) (rd : BitVec 3) (mbid : BitVec 4) (i16 j16 len16 : BitVec 16) :
    subopOf (packS sub rc rd mbid i16 j16 len16) = sub := by
  refine (BitVec.extractLsb'_append_eq_of_le (by decide)).trans ?_
  refine (BitVec.extractLsb'_append_eq_of_le (by decide)).trans ?_
  refine (BitVec.extractLsb'_append_eq_of_le (by decide)).trans ?_
  refine (BitVec.extractLsb'_append_eq_of_le (by decide)).trans ?_
  refine (BitVec.extractLsb'_append_eq_of_le (by decide)).trans ?_
  refine (BitVec.extractLsb'_append_eq_of_le (by decide)).trans ?_
  refine (BitVec.extractLsb'_append_eq_of_le (by decide)).trans ?_
  refine (BitVec.extractLsb'_append_eq_of_le (by decide)).trans ?_
  exact (BitVec.extractLsb'_append_eq_of_add_le (by decide)).trans (by simp)
@[simp] theorem rcOf_packS (sub : BitVec 8) (rc : BitVec 1) (rd : BitVec 3) (mbid : BitVec 4) (i16 j16 len16 : BitVec 16) :
    rcOf (packS sub rc rd mbid i16 j16 len16) = rc := by
  refine (BitVec.extractLsb'_append_eq_of_le (by decide)).trans ?_
  refine (BitVec.extractLsb'_append_eq_of_le (by decide)).trans ?_
  refine (BitVec.extractLsb'_append_eq_of_le (by decide)).trans ?_
  refine (BitVec.extractLsb'_append_eq_of_le (by decide)).trans ?_
  refine (BitVec.extractLsb'_append_eq_of_le (by decide)).trans ?_
  refine (BitVec.extractLsb'_append_eq_of_le (by decide)).trans ?_
  refine (BitVec.extractLsb'_append_eq_of_le (by decide)).trans ?_
  exact (BitVec.extractLsb'_append_eq_of_add_le (by decide)).trans (by simp)
@[simp] theorem flagsLowOf_packS (sub : BitVec 8) (rc : BitVec 1) (rd : BitVec 3) (mbid : BitVec 4) (i16 j16 len16 : BitVec 16) :
    flagsLowOf (packS sub rc rd mbid i16 j16 len16) = 0#15 := by
  refine (BitVec.extractLsb'_append_eq_of_le (by decide)).trans ?_
  refine (BitVec.extractLsb'_append_eq_of_le (by decide)).trans ?_
  refine (BitVec.extractLsb'_append_eq_of_le (by decide)).trans ?_
  refine (BitVec.extractLsb'_append_eq_of_le (by decide)).trans ?_
  refine (BitVec.extractLsb'_append_eq_of_le (by decide)).trans ?_
  refine (BitVec.extractLsb'_append_eq_of_le (by decide)).trans ?_
  exact (BitVec.extractLsb'_append_eq_of_add_le (by decide)).trans (by simp)
@[simp] theorem rdOf_packS (sub : BitVec 8) (rc : BitVec 1) (rd : BitVec 3) (mbid : BitVec 4) (i16 j16 len16 : BitVec 16) :
    rdOf (packS sub rc rd mbid i16 j16 len16) = rd := by
  refine (BitVec.extractLsb'_append_eq_of_le (by decide)).trans ?_
  refine (BitVec.extractLsb'_append_eq_of_le (by decide)).trans ?_
  refine (BitVec.extractLsb'_append_eq_of_le (by decide)).trans ?_
  refine (BitVec.extractLsb'_append_eq_of_le (by decide)).trans ?_
  refine (BitVec.extractLsb'_append_eq_of_le (by decide)).trans ?_
  exact (BitVec.extractLsb'_append_eq_of_add_le (by decide)).trans (by simp)
@[simp] theorem mbidOf_packS (sub : BitVec 8) (rc : BitVec 1) (rd : BitVec 3) (mbid : BitVec 4) (i16 j16 len16 : BitVec 16) :
    mbidOf (packS sub rc rd mbid i16 j16 len16) = mbid := by
  refine (BitVec.extractLsb'_append_eq_of_le (by decide)).trans ?_
  refine (BitVec.extractLsb'_append_eq_of_le (by decide)).trans ?_
  refine (BitVec.extractLsb'_append_eq_of_le (by decide)).trans ?_
  refine (BitVec.extractLsb'_append_eq_of_le (by decide)).trans ?_
  exact (BitVec.extractLsb'_append_eq_of_add_le (by decide)).trans (by simp)
@[simp] theorem i16Of_packS (sub : BitVec 8) (rc : BitVec 1) (rd : BitVec 3) (mbid : BitVec 4) (i16 j16 len16 : BitVec 16) :
    i16Of (packS sub rc rd mbid i16 j16 len16) = i16 := by
  refine (BitVec.extractLsb'_append_eq_of_le (by decide)).trans ?_
  refine (BitVec.extractLsb'_append_eq_of_le (by decide)).trans ?_
  refine (BitVec.extractLsb'_append_eq_of_le (by decide)).trans ?_
  exact (BitVec.extractLsb'_append_eq_of_add_le (by decide)).trans (by simp)
@[simp] theorem j16Of_packS (sub : BitVec 8) (rc : BitVec 1) (rd : BitVec 3) (mbid : BitVec 4) (i16 j16 len16 : BitVec 16) :
    j16Of (packS sub rc rd mbid i16 j16 len16) = j16 := by
  refine (BitVec.extractLsb'_append_eq_of_le (by decide)).trans ?_
  refine (BitVec.extractLsb'_append_eq_of_le (by decide)).trans ?_
  exact (BitVec.extractLsb'_append_eq_of_add_le (by decide)).trans (by simp)
@[simp] theorem len16Of_packS (sub : BitVec 8) (rc : BitVec 1) (rd : BitVec 3) (mbid : BitVec 4) (i16 j16 len16 : BitVec 16) :
    len16Of (packS sub rc rd mbid i16 j16 len16) = len16 := by
  refine (BitVec.extractLsb'_append_eq_of_le (by decide)).trans ?_
  exact (BitVec.extractLsb'_append_eq_of_add_le (by decide)).trans (by simp)
@[simp] theorem reservedSOf_packS (sub : BitVec 8) (rc : BitVec 1) (rd : BitVec 3) (mbid : BitVec 4) (i16 j16 len16 : BitVec 16) :
    reservedSOf (packS sub rc rd mbid i16 j16 len16) = 0#41 := by
  exact (BitVec.extractLsb'_append_eq_of_add_le (by decide)).trans (by simp)

/-- S-type with a scalar register has all of `FLAGS16` zero (30 R78). -/
@[simp] theorem flagsOf_packS_zero (sub : BitVec 8) (rd : BitVec 3) (mbid : BitVec 4)
    (i16 j16 len16 : BitVec 16) : flagsOf (packS sub 0#1 rd mbid i16 j16 len16) = 0#16 := by
  iterate 6 refine (BitVec.extractLsb'_append_eq_of_le (by decide)).trans ?_
  have h : (0x04#8 ++ sub ++ 0#1 ++ 0#15 : BitVec 32).extractLsb' 0 16
      = (0#1 ++ 0#15 : BitVec 16) := by
    have e : (0x04#8 ++ sub ++ 0#1 ++ 0#15 : BitVec 32) = (0x04#8 ++ sub) ++ (0#1 ++ 0#15) := by
      rw [BitVec.append_assoc]; rfl
    rw [e]
    exact (BitVec.extractLsb'_append_eq_of_add_le (by decide)).trans (by simp)
  exact h

/-- The access direction an encoded `rc` bit stands for. -/
@[simp] theorem accessOf_packS (sub : BitVec 8) (rc : Access) (rd : BitVec 3) (mbid : BitVec 4)
    (i16 j16 len16 : BitVec 16) : accessOf (packS sub (rcBit rc) rd mbid i16 j16 len16) = rc := by
  unfold accessOf
  rw [rcOf_packS]
  cases rc <;> rfl

/-! ### What decoding can answer -/

theorem needs_ok {c : Config} {ok : Bool} {i j : Instr} (h : needs c ok i = .ok j) :
    j = i ∧ (ok = true ∨ c.mbzIgnored = true) := by
  unfold needs at h
  split at h
  · rename_i g; cases h; simpa using g
  · cases h

theorem onlyD1Ext_ok {c : Config} {r : Except DecodeError Instr} {j : Instr}
    (h : onlyD1Ext c r = .ok j) : c.d1ext = true ∧ r = .ok j := by
  unfold onlyD1Ext at h
  split at h
  · exact ⟨‹_›, h⟩
  · cases h

theorem bankChecked_ok {c : Config} {w : InstrWord} {ok : Bool} {len : BitVec 16} {i j : Instr}
    (h : bankChecked c w ok len i = .ok j) :
    j = i ∧ (ok = true ∨ c.mbzIgnored = true) ∧ bankExists (mbidOf w) = true ∧ len.toNat ≤ c.vlen := by
  unfold bankChecked at h
  split at h
  · cases h
  · split at h
    · cases h
    · split at h
      · cases h
        cases ok <;> simp_all
      · cases h

end Sys2Proof
end

