-- ==== Sys2Proof/Laws/FixedPoint.lean ====
section
/-! SUPPORT. The integer primitives (40 R91 to R97): what each one answers. -/

namespace Sys2Proof.Machine

open Sys2Proof

theorem qext_bounds (h : Half) : InRange (qext h) := by
  have h1 := BitVec.le_toInt h
  have h2 := BitVec.toInt_lt (x := h)
  unfold qext
  constructor <;> omega

theorem qext_wrap64 (n : Int) : qext (wrap64 n) = n.bmod (2 ^ 64) := BitVec.toInt_ofInt n

/-- A result in range is kept by the wrap. -/
theorem qext_wrap64_of_inRange (n : Int) (h : InRange n) : qext (wrap64 n) = n := by
  rw [qext_wrap64]
  exact Int.bmod_eq_of_le (by have := h.1; omega) (by have := h.2; omega)

@[simp] theorem wrap64_qext (h : Half) : wrap64 (qext h) = h := BitVec.ofInt_toInt

/-- Saturation gives the nearest integer of the range. -/
theorem qext_sat64 (n : Int) : qext (sat64 n) = min (max n (-2 ^ 63)) (2 ^ 63 - 1) :=
  qext_wrap64_of_inRange _ ⟨by omega, by omega⟩

theorem sat64_of_inRange (n : Int) (h : InRange n) : sat64 n = wrap64 n := by
  unfold sat64
  congr 1
  have := h.1; have := h.2
  omega

theorem ovfTrunc_of_inRange (c : Config) (n : Int) (h : InRange n) : qext (ovfTrunc c n) = n := by
  unfold ovfTrunc
  cases c.ovfTrunc
  · exact qext_wrap64_of_inRange n h
  · simp only [sat64_of_inRange n h, qext_wrap64_of_inRange n h]

/-- A result in range is exact, whatever `OVF_UNSPEC` is and whatever the free value is. -/
theorem ovfUnspec_of_inRange (c : Config) (free : Half) (n : Int) (h : InRange n) :
    qext (ovfUnspec c free n) = n := by
  unfold ovfUnspec
  cases c.ovfUnspec
  · exact qext_wrap64_of_inRange n h
  · simp only [sat64_of_inRange n h, qext_wrap64_of_inRange n h]
  · simp only
    rw [if_pos h, qext_wrap64_of_inRange n h]

/-- Floor rounding (40 R95): the greatest integer whose multiple does not exceed the dividend. -/
theorem rdiv_floor (c : Config) (hc : c.fracRound = .floor) (n d : Int) (hd : 0 < d) :
    rdiv c n d * d ≤ n ∧ n < (rdiv c n d + 1) * d := by
  simp only [rdiv, hc]
  constructor
  · exact Int.ediv_mul_le n (by omega)
  · exact Int.lt_ediv_add_one_mul_self n hd

theorem mag2_nonneg (a : Cplx) : 0 ≤ mag2 a := by
  unfold mag2; nlinarith [mul_self_nonneg (qext a.re), mul_self_nonneg (qext a.im)]

/-- The squared magnitude is zero exactly for complex zero (40 R103). -/
theorem mag2_eq_zero (a : Cplx) : mag2 a = 0 ↔ a = Cplx.zero := by
  obtain ⟨re, im⟩ := a
  constructor
  · intro h
    simp only [mag2] at h
    have hx : qext re = 0 := by nlinarith [mul_self_nonneg (qext re), mul_self_nonneg (qext im)]
    have hy : qext im = 0 := by nlinarith [mul_self_nonneg (qext re), mul_self_nonneg (qext im)]
    have e1 : re = 0#64 := BitVec.eq_of_toInt_eq (by simpa [qext] using hx)
    have e2 : im = 0#64 := BitVec.eq_of_toInt_eq (by simpa [qext] using hy)
    rw [e1, e2]; rfl
  · intro h; rw [h]; rfl

/-! ### The integer square root (40 R97) -/

theorem isqrtFrom_spec (n k r : Nat) (hr : r * r ≤ n) (hn : n < (r + 2 ^ k) * (r + 2 ^ k)) :
    isqrtFrom n k r * isqrtFrom n k r ≤ n ∧ n < (isqrtFrom n k r + 1) * (isqrtFrom n k r + 1) := by
  induction k generalizing r with
  | zero => exact ⟨hr, by simpa [isqrtFrom] using hn⟩
  | succ k ih =>
    unfold isqrtFrom
    split
    · next h => exact ih _ h (by rw [Nat.add_assoc, ← Nat.two_mul, ← Nat.pow_succ']; exact hn)
    · next h => exact ih _ hr (by omega)

/-- `isqrt n` is the greatest `r` with `r * r <= n`. -/
theorem isqrt_spec (n : Nat) : isqrt n * isqrt n ≤ n ∧ n < (isqrt n + 1) * (isqrt n + 1) := by
  refine isqrtFrom_spec n _ 0 (by omega) ?_
  have h1 : n < 2 ^ (n.log2 + 1) := Nat.lt_log2_self
  have h2 : 2 ^ (n.log2 + 1) ≤ 2 ^ (n.log2 / 2 + 1) * 2 ^ (n.log2 / 2 + 1) := by
    rw [← Nat.pow_add]; exact Nat.pow_le_pow_right (by omega) (by omega)
  rw [Nat.zero_add]; omega

theorem isqrt_eq_sqrt (n : Nat) : isqrt n = Nat.sqrt n := by
  have h := isqrt_spec n
  exact Nat.eq_sqrt.mpr h

end Sys2Proof.Machine
end

