-- ==== Sys2Proof/Laws/PerInstr.lean ====
section
/-! SUPPORT. The family TableSelect: every instruction's word carries the opcode, the subop and, for
R-type, the mapping selector of its row of spec/opcode_table.json (30_encoding R61, R69, R75, R88). -/

namespace Sys2Proof.Laws

/-- The row's opcode, subop and mapping selector (30_encoding R75, 48 R200); `none` where the format
has no selector. Written from the table's `match` words. -/
def selector : Instr → BitVec 8 × BitVec 8 × Option (BitVec 2)
  | .cneg _ _ => (0x01#8, 0x00#8, some 0#2)
  | .conj _ _ => (0x01#8, 0x01#8, some 0#2)
  | .csqrt _ _ => (0x01#8, 0x02#8, some 0#2)
  | .cabs2 _ _ => (0x01#8, 0x03#8, some 0#2)
  | .cabs _ _ => (0x01#8, 0x04#8, some 0#2)
  | .creal _ _ => (0x01#8, 0x05#8, some 0#2)
  | .cimag _ _ => (0x01#8, 0x06#8, some 0#2)
  | .crecip _ _ => (0x01#8, 0x07#8, some 0#2)
  | .cadd _ _ _ => (0x01#8, 0x08#8, some 0#2)
  | .csub _ _ _ => (0x01#8, 0x09#8, some 0#2)
  | .cmul _ _ _ => (0x01#8, 0x0A#8, some 0#2)
  | .cdiv _ _ _ => (0x01#8, 0x0B#8, some 0#2)
  | .vadd _ _ _ => (0x01#8, 0x00#8, some 1#2)
  | .vsub _ _ _ => (0x01#8, 0x01#8, some 1#2)
  | .vmul _ _ _ => (0x01#8, 0x02#8, some 1#2)
  | .vdiv _ _ _ => (0x01#8, 0x04#8, some 1#2)
  | .vconj _ _ => (0x01#8, 0x05#8, some 1#2)
  | .dotu _ _ _ => (0x01#8, 0x01#8, some 2#2)
  | .iamax _ _ => (0x01#8, 0x02#8, some 2#2)
  | .sum _ _ => (0x01#8, 0x03#8, some 2#2)
  | .vsadd _ _ _ => (0x01#8, 0x18#8, some 3#2)
  | .vssub _ _ _ => (0x01#8, 0x19#8, some 3#2)
  | .vsmul _ _ _ => (0x01#8, 0x1A#8, some 3#2)
  | .vsdiv _ _ _ => (0x01#8, 0x1B#8, some 3#2)
  | .cloadi _ _ _ => (0x02#8, 0x00#8, none)
  | .caddI _ _ _ _ => (0x02#8, 0x01#8, none)
  | .cmulI _ _ _ _ => (0x02#8, 0x02#8, none)
  | .csubI _ _ _ _ => (0x02#8, 0x03#8, none)
  | .cdivI _ _ _ _ => (0x02#8, 0x04#8, none)
  | .jrel _ => (0x03#8, 0x00#8, none)
  | .vld _ _ _ _ _ => (0x04#8, 0x00#8, none)
  | .vst _ _ _ _ _ => (0x04#8, 0x01#8, none)
  | .sldXy _ _ _ _ => (0x04#8, 0x02#8, none)
  | .sstXy _ _ _ _ => (0x04#8, 0x03#8, none)
  | .cmaxabs _ _ _ => (0x01#8, 0x0C#8, some 0#2)
  | .cminabs _ _ _ => (0x01#8, 0x0D#8, some 0#2)
  | .cmpltRe _ _ _ => (0x01#8, 0x0E#8, some 0#2)
  | .cmpgtRe _ _ _ => (0x01#8, 0x0F#8, some 0#2)
  | .cmpleRe _ _ _ => (0x01#8, 0x10#8, some 0#2)
  | .vmac _ _ _ => (0x01#8, 0x03#8, some 1#2)
  | .dotc _ _ _ => (0x01#8, 0x00#8, some 2#2)
  | .asum _ _ => (0x01#8, 0x04#8, some 2#2)
  | .vsload _ _ _ => (0x01#8, 0x1C#8, some 3#2)
  | .cmaxabsI _ _ _ _ => (0x02#8, 0x05#8, none)
  | .cminabsI _ _ _ _ => (0x02#8, 0x06#8, none)
  | .cscaleI _ _ _ => (0x02#8, 0x10#8, none)

/-- The word of an instruction lies in its row of the opcode table (30_encoding R75, R88). -/
def TableSelect.Statement (i : Instr) : Prop :=
  opcodeOf (encode i) = (selector i).1 ∧ subopOf (encode i) = (selector i).2.1
    ∧ ∀ m, (selector i).2.2 = some m → mappingOf (encode i) = m

theorem TableSelect.cneg x0 x1 : TableSelect.Statement (.cneg x0 x1) :=
  ⟨opcodeOf_packR .., subopOf_packR .., fun _ h => Option.some.inj h ▸ mappingOf_packR ..⟩

theorem TableSelect.conj x0 x1 : TableSelect.Statement (.conj x0 x1) :=
  ⟨opcodeOf_packR .., subopOf_packR .., fun _ h => Option.some.inj h ▸ mappingOf_packR ..⟩

theorem TableSelect.csqrt x0 x1 : TableSelect.Statement (.csqrt x0 x1) :=
  ⟨opcodeOf_packR .., subopOf_packR .., fun _ h => Option.some.inj h ▸ mappingOf_packR ..⟩

theorem TableSelect.cabs2 x0 x1 : TableSelect.Statement (.cabs2 x0 x1) :=
  ⟨opcodeOf_packR .., subopOf_packR .., fun _ h => Option.some.inj h ▸ mappingOf_packR ..⟩

theorem TableSelect.cabs x0 x1 : TableSelect.Statement (.cabs x0 x1) :=
  ⟨opcodeOf_packR .., subopOf_packR .., fun _ h => Option.some.inj h ▸ mappingOf_packR ..⟩

theorem TableSelect.creal x0 x1 : TableSelect.Statement (.creal x0 x1) :=
  ⟨opcodeOf_packR .., subopOf_packR .., fun _ h => Option.some.inj h ▸ mappingOf_packR ..⟩

theorem TableSelect.cimag x0 x1 : TableSelect.Statement (.cimag x0 x1) :=
  ⟨opcodeOf_packR .., subopOf_packR .., fun _ h => Option.some.inj h ▸ mappingOf_packR ..⟩

theorem TableSelect.crecip x0 x1 : TableSelect.Statement (.crecip x0 x1) :=
  ⟨opcodeOf_packR .., subopOf_packR .., fun _ h => Option.some.inj h ▸ mappingOf_packR ..⟩

theorem TableSelect.cadd x0 x1 x2 : TableSelect.Statement (.cadd x0 x1 x2) :=
  ⟨opcodeOf_packR .., subopOf_packR .., fun _ h => Option.some.inj h ▸ mappingOf_packR ..⟩

theorem TableSelect.csub x0 x1 x2 : TableSelect.Statement (.csub x0 x1 x2) :=
  ⟨opcodeOf_packR .., subopOf_packR .., fun _ h => Option.some.inj h ▸ mappingOf_packR ..⟩

theorem TableSelect.cmul x0 x1 x2 : TableSelect.Statement (.cmul x0 x1 x2) :=
  ⟨opcodeOf_packR .., subopOf_packR .., fun _ h => Option.some.inj h ▸ mappingOf_packR ..⟩

theorem TableSelect.cdiv x0 x1 x2 : TableSelect.Statement (.cdiv x0 x1 x2) :=
  ⟨opcodeOf_packR .., subopOf_packR .., fun _ h => Option.some.inj h ▸ mappingOf_packR ..⟩

theorem TableSelect.vadd x0 x1 x2 : TableSelect.Statement (.vadd x0 x1 x2) :=
  ⟨opcodeOf_packR .., subopOf_packR .., fun _ h => Option.some.inj h ▸ mappingOf_packR ..⟩

theorem TableSelect.vsub x0 x1 x2 : TableSelect.Statement (.vsub x0 x1 x2) :=
  ⟨opcodeOf_packR .., subopOf_packR .., fun _ h => Option.some.inj h ▸ mappingOf_packR ..⟩

theorem TableSelect.vmul x0 x1 x2 : TableSelect.Statement (.vmul x0 x1 x2) :=
  ⟨opcodeOf_packR .., subopOf_packR .., fun _ h => Option.some.inj h ▸ mappingOf_packR ..⟩

theorem TableSelect.vdiv x0 x1 x2 : TableSelect.Statement (.vdiv x0 x1 x2) :=
  ⟨opcodeOf_packR .., subopOf_packR .., fun _ h => Option.some.inj h ▸ mappingOf_packR ..⟩

theorem TableSelect.vconj x0 x1 : TableSelect.Statement (.vconj x0 x1) :=
  ⟨opcodeOf_packR .., subopOf_packR .., fun _ h => Option.some.inj h ▸ mappingOf_packR ..⟩

theorem TableSelect.dotu x0 x1 x2 : TableSelect.Statement (.dotu x0 x1 x2) :=
  ⟨opcodeOf_packR .., subopOf_packR .., fun _ h => Option.some.inj h ▸ mappingOf_packR ..⟩

theorem TableSelect.iamax x0 x1 : TableSelect.Statement (.iamax x0 x1) :=
  ⟨opcodeOf_packR .., subopOf_packR .., fun _ h => Option.some.inj h ▸ mappingOf_packR ..⟩

theorem TableSelect.sum x0 x1 : TableSelect.Statement (.sum x0 x1) :=
  ⟨opcodeOf_packR .., subopOf_packR .., fun _ h => Option.some.inj h ▸ mappingOf_packR ..⟩

theorem TableSelect.vsadd x0 x1 x2 : TableSelect.Statement (.vsadd x0 x1 x2) :=
  ⟨opcodeOf_packR .., subopOf_packR .., fun _ h => Option.some.inj h ▸ mappingOf_packR ..⟩

theorem TableSelect.vssub x0 x1 x2 : TableSelect.Statement (.vssub x0 x1 x2) :=
  ⟨opcodeOf_packR .., subopOf_packR .., fun _ h => Option.some.inj h ▸ mappingOf_packR ..⟩

theorem TableSelect.vsmul x0 x1 x2 : TableSelect.Statement (.vsmul x0 x1 x2) :=
  ⟨opcodeOf_packR .., subopOf_packR .., fun _ h => Option.some.inj h ▸ mappingOf_packR ..⟩

theorem TableSelect.vsdiv x0 x1 x2 : TableSelect.Statement (.vsdiv x0 x1 x2) :=
  ⟨opcodeOf_packR .., subopOf_packR .., fun _ h => Option.some.inj h ▸ mappingOf_packR ..⟩

theorem TableSelect.cloadi x0 x1 x2 : TableSelect.Statement (.cloadi x0 x1 x2) :=
  ⟨opcodeOf_packI .., subopOf_packI .., fun _ h => nomatch h⟩

theorem TableSelect.caddI x0 x1 x2 x3 : TableSelect.Statement (.caddI x0 x1 x2 x3) :=
  ⟨opcodeOf_packI .., subopOf_packI .., fun _ h => nomatch h⟩

theorem TableSelect.cmulI x0 x1 x2 x3 : TableSelect.Statement (.cmulI x0 x1 x2 x3) :=
  ⟨opcodeOf_packI .., subopOf_packI .., fun _ h => nomatch h⟩

theorem TableSelect.csubI x0 x1 x2 x3 : TableSelect.Statement (.csubI x0 x1 x2 x3) :=
  ⟨opcodeOf_packI .., subopOf_packI .., fun _ h => nomatch h⟩

theorem TableSelect.cdivI x0 x1 x2 x3 : TableSelect.Statement (.cdivI x0 x1 x2 x3) :=
  ⟨opcodeOf_packI .., subopOf_packI .., fun _ h => nomatch h⟩

theorem TableSelect.jrel x0 : TableSelect.Statement (.jrel x0) :=
  ⟨opcodeOf_packJ .., subopOf_packJ .., fun _ h => nomatch h⟩

theorem TableSelect.vld x0 x1 x2 x3 x4 : TableSelect.Statement (.vld x0 x1 x2 x3 x4) :=
  ⟨opcodeOf_packS .., subopOf_packS .., fun _ h => nomatch h⟩

theorem TableSelect.vst x0 x1 x2 x3 x4 : TableSelect.Statement (.vst x0 x1 x2 x3 x4) :=
  ⟨opcodeOf_packS .., subopOf_packS .., fun _ h => nomatch h⟩

theorem TableSelect.sldXy x0 x1 x2 x3 : TableSelect.Statement (.sldXy x0 x1 x2 x3) :=
  ⟨opcodeOf_packS .., subopOf_packS .., fun _ h => nomatch h⟩

theorem TableSelect.sstXy x0 x1 x2 x3 : TableSelect.Statement (.sstXy x0 x1 x2 x3) :=
  ⟨opcodeOf_packS .., subopOf_packS .., fun _ h => nomatch h⟩

theorem TableSelect.cmaxabs x0 x1 x2 : TableSelect.Statement (.cmaxabs x0 x1 x2) :=
  ⟨opcodeOf_packR .., subopOf_packR .., fun _ h => Option.some.inj h ▸ mappingOf_packR ..⟩

theorem TableSelect.cminabs x0 x1 x2 : TableSelect.Statement (.cminabs x0 x1 x2) :=
  ⟨opcodeOf_packR .., subopOf_packR .., fun _ h => Option.some.inj h ▸ mappingOf_packR ..⟩

theorem TableSelect.cmpltRe x0 x1 x2 : TableSelect.Statement (.cmpltRe x0 x1 x2) :=
  ⟨opcodeOf_packR .., subopOf_packR .., fun _ h => Option.some.inj h ▸ mappingOf_packR ..⟩

theorem TableSelect.cmpgtRe x0 x1 x2 : TableSelect.Statement (.cmpgtRe x0 x1 x2) :=
  ⟨opcodeOf_packR .., subopOf_packR .., fun _ h => Option.some.inj h ▸ mappingOf_packR ..⟩

theorem TableSelect.cmpleRe x0 x1 x2 : TableSelect.Statement (.cmpleRe x0 x1 x2) :=
  ⟨opcodeOf_packR .., subopOf_packR .., fun _ h => Option.some.inj h ▸ mappingOf_packR ..⟩

theorem TableSelect.vmac x0 x1 x2 : TableSelect.Statement (.vmac x0 x1 x2) :=
  ⟨opcodeOf_packR .., subopOf_packR .., fun _ h => Option.some.inj h ▸ mappingOf_packR ..⟩

theorem TableSelect.dotc x0 x1 x2 : TableSelect.Statement (.dotc x0 x1 x2) :=
  ⟨opcodeOf_packR .., subopOf_packR .., fun _ h => Option.some.inj h ▸ mappingOf_packR ..⟩

theorem TableSelect.asum x0 x1 : TableSelect.Statement (.asum x0 x1) :=
  ⟨opcodeOf_packR .., subopOf_packR .., fun _ h => Option.some.inj h ▸ mappingOf_packR ..⟩

theorem TableSelect.vsload x0 x1 x2 : TableSelect.Statement (.vsload x0 x1 x2) :=
  ⟨opcodeOf_packR .., subopOf_packR .., fun _ h => Option.some.inj h ▸ mappingOf_packR ..⟩

theorem TableSelect.cmaxabsI x0 x1 x2 x3 : TableSelect.Statement (.cmaxabsI x0 x1 x2 x3) :=
  ⟨opcodeOf_packI .., subopOf_packI .., fun _ h => nomatch h⟩

theorem TableSelect.cminabsI x0 x1 x2 x3 : TableSelect.Statement (.cminabsI x0 x1 x2 x3) :=
  ⟨opcodeOf_packI .., subopOf_packI .., fun _ h => nomatch h⟩

theorem TableSelect.cscaleI x0 x1 x2 : TableSelect.Statement (.cscaleI x0 x1 x2) :=
  ⟨opcodeOf_packI .., subopOf_packI .., fun _ h => nomatch h⟩

end Sys2Proof.Laws
end

