-- ==== Sys2Proof/Laws/Registers.lean ====
section
/-! SUPPORT. The register files: what a read gives after a write (10_state R20 to R27), and that register
and pc updates touch no storage. -/

namespace Sys2Proof.Machine

open Sys2Proof

@[simp] theorem State.readS_zero (s : State) : s.readS 0#3 = Cplx.zero := rfl
@[simp] theorem State.lane_zero (s : State) (k : Nat) : s.lane 0#3 k = Cplx.zero := rfl

/-- What a scalar write does to every scalar register. -/
theorem State.readS_writeS (s : State) (r q : SReg) (v : Cplx) :
    (s.writeS r v).readS q = if q = r ∧ r ≠ 0#3 then v else s.readS q := by
  unfold State.writeS
  by_cases hr : r = 0#3
  · simp [hr]
  · simp only [hr, if_false]
    unfold State.readS
    by_cases hq : q = 0#3
    · have : ¬ (q = r ∧ r ≠ 0#3) := fun e => hr (e.1 ▸ hq)
      rw [if_neg this, if_pos hq, if_pos hq]
    · simp only [hq, if_false]
      by_cases e : q = r
      · subst e; simp [hr]
      · have : ¬ r.toNat = q.toNat := fun g => e (BitVec.eq_of_toNat_eq g.symm)
        simp [this, e]

/-- What a vector write does to every lane below `VLEN` of every vector register. -/
theorem State.lane_writeV (s : State) (r q : VReg) (f : Nat → Cplx) (k : Nat) (hk : k < s.cfg.vlen) :
    (s.writeV r f).lane q k = if q = r ∧ r ≠ 0#3 then f k else s.lane q k := by
  unfold State.writeV
  by_cases hr : r = 0#3
  · simp [hr]
  · simp only [hr, if_false]
    unfold State.lane
    by_cases hq : q = 0#3
    · have : ¬ (q = r ∧ r ≠ 0#3) := fun e => hr (e.1 ▸ hq)
      rw [if_neg this, if_pos hq, if_pos hq]
    · simp only [hq, if_false]
      by_cases e : q = r
      · subst e; simp [hr, hk]
      · have : ¬ r.toNat = q.toNat := fun g => e (BitVec.eq_of_toNat_eq g.symm)
        simp [this, e]

/-- A vector write leaves every lane of every other vector register, at any lane index. -/
theorem State.lane_writeV_other (s : State) (r q : VReg) (f : Nat → Cplx) (k : Nat) (h : q ≠ r) :
    (s.writeV r f).lane q k = s.lane q k := by
  unfold State.writeV
  by_cases hr : r = 0#3
  · simp [hr]
  · have : ¬ r.toNat = q.toNat := fun g => h (BitVec.eq_of_toNat_eq g.symm)
    simp [hr, State.lane, this]

theorem State.readS_congr (s t : State) (h : t.sregs = s.sregs) (q : SReg) : t.readS q = s.readS q := by
  unfold State.readS; rw [h]

theorem State.lane_congr (s t : State) (h : t.vregs = s.vregs) (q : VReg) (k : Nat) :
    t.lane q k = s.lane q k := by
  unfold State.lane; rw [h]

theorem State.byte_congr (s t : State) (hb : t.banks = s.banks) (hi : t.imem = s.imem) (sp : Space)
    (a : Nat) : t.byte sp a = s.byte sp a := by
  unfold State.byte State.mem; rw [hb, hi]

/-- What the end of a scalar instruction leaves. -/
theorem State.finishS_spec (s : State) (rd : SReg) (v : Cplx) :
    (∀ q, (s.finishS rd v).readS q = if q = rd ∧ rd ≠ 0#3 then v else s.readS q)
      ∧ (∀ q k, (s.finishS rd v).lane q k = s.lane q k)
      ∧ (∀ sp a, (s.finishS rd v).byte sp a = s.byte sp a) := by
  refine ⟨fun q => ?_, fun q k => ?_, fun sp a => ?_⟩
  · rw [← State.readS_writeS]; exact State.readS_congr _ _ rfl q
  · exact State.lane_congr _ _ (by simp) q k
  · exact State.byte_congr _ _ (by simp) (by simp) sp a

/-- What the end of a vector instruction leaves. -/
theorem State.finishV_spec (s : State) (rd : VReg) (f : Nat → Cplx) :
    (∀ q, ∀ k < s.cfg.vlen, (s.finishV rd f).lane q k = if q = rd ∧ rd ≠ 0#3 then f k else s.lane q k)
      ∧ (∀ q k, q ≠ rd → (s.finishV rd f).lane q k = s.lane q k)
      ∧ (∀ q, (s.finishV rd f).readS q = s.readS q)
      ∧ (∀ sp a, (s.finishV rd f).byte sp a = s.byte sp a) := by
  refine ⟨fun q k hk => ?_, fun q k h => ?_, fun q => ?_, fun sp a => ?_⟩
  · rw [← State.lane_writeV s rd q f k hk]; exact State.lane_congr _ _ rfl q k
  · rw [← State.lane_writeV_other s rd q f k h]; exact State.lane_congr _ _ rfl q k
  · exact State.readS_congr _ _ (by simp) q
  · exact State.byte_congr _ _ (by simp) (by simp) sp a

end Sys2Proof.Machine
end

