-- ==== Sys2Proof/Laws/Results.lean ====
section
/-! SUPPORT. What the shared ends of an instruction and the arithmetic primitives answer, in the terms of
Safety. -/

namespace Sys2Proof.Machine

open Sys2Proof

/-! ### Ends of an instruction -/

theorem ScalarResult.of_finishS (s : State) (rd : SReg) (v : Cplx) (P : Cplx → Prop)
    (h : rd ≠ 0#3 → P v) : ScalarResult s (s.finishS rd v) rd P := by
  obtain ⟨hr, hl, hb⟩ := s.finishS_spec rd v
  refine ⟨fun hrd => ?_, rfl, fun r hne => ?_, hl, hb, ⟨by simp, by simp, by simp⟩, by simp⟩
  · rw [hr, if_pos ⟨rfl, hrd⟩]; exact h hrd
  · rw [hr, if_neg fun e => hne e.1]

theorem VectorResult.of_finishV (s : State) (rd : VReg) (f : Nat → Cplx) (P : Nat → Cplx → Prop)
    (h : rd ≠ 0#3 → ∀ k < s.cfg.vlen, P k (f k)) : VectorResult s (s.finishV rd f) rd P := by
  obtain ⟨hl, ho, hr, hb⟩ := s.finishV_spec rd f
  refine ⟨fun hrd k hk => ?_, fun _ => rfl, fun r k hne => ho r k hne, hr, hb,
    ⟨by simp, by simp, by simp⟩, by simp⟩
  rw [hl rd k hk, if_pos ⟨rfl, hrd⟩]; exact h hrd k hk

/-- Counting a draw of free values changes nothing that an instruction's result speaks of. -/
theorem ScalarResult.drawn {s t : State} {rd : SReg} {P : Cplx → Prop} (h : ScalarResult s t rd P) :
    ScalarResult s t.drawn rd P :=
  ⟨h.value, h.zero, h.others, h.vectors, h.storage, h.run, h.pc⟩

theorem VectorResult.drawn {s t : State} {rd : VReg} {P : Nat → Cplx → Prop}
    (h : VectorResult s t rd P) : VectorResult s t.drawn rd P :=
  ⟨h.value, h.zero, h.others, h.scalars, h.storage, h.run, h.pc⟩

/-! ### Arithmetic primitives -/

theorem wraps_wrap64 (n : Int) : Wraps n (wrap64 n) := by
  unfold Wraps wrap64
  rw [BitVec.toNat_ofInt]
  have : (0 : Int) ≤ n % (2 ^ 64 : Nat) := Int.emod_nonneg _ (by decide)
  rw [Int.toNat_of_nonneg this]; norm_num

theorem clamps_sat64 (n : Int) : Clamps n (sat64 n) := by
  have h := qext_sat64 n
  unfold qext at h
  refine ⟨fun g => ?_, fun g => ?_, fun g => ?_⟩ <;> rw [h]
  · omega
  · have := g.1; have := g.2; omega
  · omega

theorem truncates_ovfTrunc (c : Config) (n : Int) : Truncates c n (ovfTrunc c n) := by
  unfold Truncates ovfTrunc
  cases c.ovfTrunc
  · exact wraps_wrap64 n
  · exact clamps_sat64 n

/-- Whatever the free value is, `ovf_unspec` answers what 40 R94 and U5 allow. -/
theorem unspecified_ovfUnspec (c : Config) (free : Half) (n : Int) :
    Unspecified c n (ovfUnspec c free n) := by
  unfold Unspecified
  split <;> rename_i g
  · simp only [ovfUnspec, g]; exact wraps_wrap64 n
  · simp only [ovfUnspec, g]; exact clamps_sat64 n
  · exact ovfUnspec_of_inRange c free n

/-- Both reductions keep an integer in range, whatever the settings and the free value are. -/
theorem exactInRange_ovfTrunc (c : Config) (n : Int) : ExactInRange n (ovfTrunc c n) :=
  ovfTrunc_of_inRange c n

theorem exactInRange_ovfUnspec (c : Config) (free : Half) (n : Int) :
    ExactInRange n (ovfUnspec c free n) := ovfUnspec_of_inRange c free n

theorem rounds_rdiv (c : Config) (n d : Int) (hd : 0 < d) : Rounds c n d (rdiv c n d) := by
  unfold Rounds
  split <;> rename_i g
  · exact rdiv_floor c g n d hd
  · simp only [rdiv, g]
    constructor
    · intro hn
      rw [Int.tdiv_eq_ediv_of_nonneg hn]
      exact ⟨Int.ediv_mul_le n (by omega), Int.lt_ediv_add_one_mul_self n hd⟩
    · intro hn
      have e : n.tdiv d = -((-n) / d) := by
        rw [← Int.tdiv_eq_ediv_of_nonneg (by omega), Int.neg_tdiv, Int.neg_neg]
      rw [e]
      have h1 := Int.ediv_mul_le (-n) (show d ≠ 0 by omega)
      have h2 := Int.lt_ediv_add_one_mul_self (-n) hd
      constructor <;> nlinarith

/-- `ovf_unspec` as the handler of a lane. -/
theorem unspecified_unspecH (c : Config) (count lane : Nat) (p : Part) (n : Int) :
    Unspecified c n (unspecH c count lane p n) := unspecified_ovfUnspec _ _ _

/-! ### Complex operations -/

/-- `c_mul` under a handler that answers what `ovf` allows (40 R101). -/
theorem isProduct_cMul (c : Config) (ovf : Int → Half → Prop) (h : Handler) (a b : Cplx)
    (H : ∀ p n, ovf n (h p n)) : IsProduct c ovf a b (cMul c h a b) :=
  ⟨⟨_, rounds_rdiv c _ _ (by norm_num), H _ _⟩, ⟨_, rounds_rdiv c _ _ (by norm_num), H _ _⟩⟩

/-- `c_div` under a handler that answers what `ovf` allows (40 R102). -/
theorem isQuotient_cDiv (c : Config) (ovf : Int → Half → Prop) (h : Handler) (a b : Cplx)
    (H : ∀ p n, ovf n (h p n)) : IsQuotient c ovf a b (cDiv c h a b) := by
  refine ⟨fun hb => ?_, fun hb => ?_⟩
  · unfold cDiv; rw [if_pos ((mag2_eq_zero b).2 hb)]
  · have hm : mag2 b ≠ 0 := fun e => hb ((mag2_eq_zero b).1 e)
    have hp : 0 < mag2 b := lt_of_le_of_ne (mag2_nonneg b) (Ne.symm hm)
    have e : b.re.toInt ^ 2 + b.im.toInt ^ 2 = mag2 b := by unfold mag2 qext; ring
    unfold cDiv
    rw [if_neg hm, e]
    exact ⟨⟨_, rounds_rdiv c _ _ hp, H _ _⟩, ⟨_, rounds_rdiv c _ _ hp, H _ _⟩⟩

theorem sqMag_eq_mag2 (a : Cplx) : sqMag a = mag2 a := by unfold sqMag mag2 qext; ring

/-- `r_sqrt_mag` is the integer square root of the squared magnitude (40 R97, R105). -/
theorem rSqrtMag_spec (a : Cplx) :
    0 ≤ rSqrtMag a ∧ rSqrtMag a ^ 2 ≤ sqMag a ∧ sqMag a < (rSqrtMag a + 1) ^ 2 := by
  have h := isqrt_spec (mag2 a).toNat
  have e : ((mag2 a).toNat : Int) = mag2 a := Int.toNat_of_nonneg (mag2_nonneg a)
  rw [sqMag_eq_mag2]
  unfold rSqrtMag
  refine ⟨Int.natCast_nonneg _, ?_, ?_⟩ <;> rw [pow_two]
  · have := h.1; zify at this; omega
  · have := h.2; zify at this; omega

/-- What U6 allows a square-root result to be, for every free error. -/
theorem near_rootResult (c : Config) (count slot : Nat) (low : Option Int) (n : Int)
    (h : ∀ l, low = some l → l ≤ n) : NearRoot c n (rootResult c count slot low n) := by
  have := (Config.freeUlp count slot).isLt
  unfold NearRoot rootResult
  cases c.sqrtExact
  · simp only [Bool.false_eq_true, if_false, false_implies, true_and]
    cases low with
    | none => simp only; omega
    | some l => have := h l rfl; simp only; omega
  · simp

/-! ### Operands and reductions -/

/-- The widened immediate holds its value times 2^9, with no loss (30 R71). -/
theorem widenImm_toInt (h : Imm45) : (widenImm h).toInt = h.toInt * 2 ^ 9 := by
  have h1 := BitVec.le_toInt h
  have h2 := BitVec.toInt_lt (x := h)
  exact qext_wrap64_of_inRange _ ⟨by norm_num at *; omega, by norm_num at *; omega⟩

/-- The exact sum over the lanes as a sum over a range (43 R140). -/
theorem State.sumLanes_eq_sum (s : State) (f : Nat → Int) :
    s.sumLanes f = ∑ k ∈ Finset.range s.cfg.vlen, f k := by
  unfold State.sumLanes
  induction s.cfg.vlen with
  | zero => rfl
  | succ n ih => rw [Finset.sum_range_succ, List.range_succ, List.map_append, List.sum_append, ih]; simp

/-- The scan of `iamax` finds the lowest index of the largest magnitude (43 R142). -/
theorem argmaxFrom_spec (f : Nat → Cplx) (n i best : Nat) (hb : best < i)
    (h1 : ∀ k < i, mag2 (f k) ≤ mag2 (f best)) (h2 : ∀ k < best, mag2 (f k) < mag2 (f best)) :
    let j := argmaxFrom ((List.range' i n).map f) i best (mag2 (f best))
    j < i + n ∧ (∀ k < i + n, mag2 (f k) ≤ mag2 (f j)) ∧ ∀ k < j, mag2 (f k) < mag2 (f j) := by
  induction n generalizing i best with
  | zero => simpa [argmaxFrom] using ⟨hb, h1, h2⟩
  | succ n ih =>
    simp only [List.range'_succ, List.map_cons, argmaxFrom]
    rw [show i + (n + 1) = i + 1 + n by omega]
    split
    · next h =>
      refine ih (i + 1) i (by omega) (fun k hk => ?_) fun k hk => lt_of_le_of_lt (h1 k hk) h
      by_cases e : k = i
      · rw [e]
      · exact le_trans (h1 k (by omega)) (le_of_lt h)
    · next h =>
      refine ih (i + 1) best (by omega) (fun k hk => ?_) h2
      by_cases e : k = i
      · rw [e]; omega
      · exact h1 k (by omega)

end Sys2Proof.Machine
end

