-- ==== Sys2Proof/Laws/Step.lean ====
section
/-! SUPPORT. What no instruction changes, and what placing a word for the next fetch gives. -/

namespace Sys2Proof.Machine

open Sys2Proof

/-- No instruction changes the build, the program's length or instruction memory (00_scope R6,
20_memory R58). -/
theorem exec_keeps (i : Instr) (s t : State) (h : exec i s = .next t) :
    t.cfg = s.cfg ∧ t.progLen = s.progLen ∧ t.imem = s.imem := by
  cases i <;>
    (try simp only [exec, execVld, execVst, execSldXy, execSstXy, execVsload, execJrel] at h) <;>
    (repeat' split at h) <;> (cases h; simp)

/-! ### A word placed by the host -/

@[simp] theorem State.loadWord_cfg (s : State) (k : Nat) (w : InstrWord) : (s.loadWord k w).cfg = s.cfg := by
  unfold State.loadWord; exact State.write128_cfg ..
@[simp] theorem State.loadWord_pc (s : State) (k : Nat) (w : InstrWord) : (s.loadWord k w).pc = s.pc := by
  unfold State.loadWord; exact State.write128_pc ..
@[simp] theorem State.loadWord_fault (s : State) (k : Nat) (w : InstrWord) :
    (s.loadWord k w).fault = s.fault := by
  unfold State.loadWord; exact State.write128_fault ..
@[simp] theorem State.loadWord_progLen (s : State) (k : Nat) (w : InstrWord) :
    (s.loadWord k w).progLen = max s.progLen (k + 1) := by
  unfold State.loadWord; rfl

/-- What loading a word does to every byte of every storage. -/
theorem State.byte_loadWord (s : State) (k : Nat) (w : InstrWord) (sp : Space) (a : Nat) :
    (s.loadWord k w).byte sp a =
      if sp = .imem ∧ 16 * k ≤ a ∧ a < 16 * k + 16 then wordByte w (a - 16 * k) else s.byte sp a := by
  rw [← State.byte_write128]
  unfold State.loadWord
  cases sp <;> simp only [State.byte, State.mem]

/-- The word `withFetchWord` places is the one a fetch there reads. -/
theorem State.read128_loadWord (s : State) (k : Nat) (w : InstrWord) :
    (s.loadWord k w).read128 .imem (16 * k) = w := by
  have h : ∀ j < 16, (s.loadWord k w).byte .imem (16 * k + j) = wordByte w j := by
    intro j hj
    rw [State.byte_loadWord, if_pos ⟨rfl, by omega, by omega⟩, Nat.add_sub_cancel_left]
  exact (wordOfBytes_congr _ _ h).trans (wordOfBytes_wordByte w)

/-- A whole word is placed as it is. -/
theorem State.withFetchWord_word (s : State) (w : InstrWord) :
    s.withFetchWord 128 w.toNat = (s.readyToFetch w).loadWord s.pc.toNat w := by
  have e : BitVec.ofNat 128 (w.toNat % 2 ^ 128) = w := by
    rw [Nat.mod_eq_of_lt w.isLt, BitVec.ofNat_toNat, BitVec.setWidth_eq]
  unfold State.withFetchWord
  rw [e]

end Sys2Proof.Machine
end

