-- ==== Sys2Proof/Tests/Slice0.lean ====
section
/-! SUPPORT. Tests. The words and the expected results are those of spec/95_test_vectors.md (E, X, B: words; A, V,
I, J, M, Y: one step; section 11: other parameters); the ill-formed terms are written from the rules
that `WellFormed` cites. After them one witness for each statement that has hypotheses. -/

namespace Sys2Proof.Tests

open Sys2Proof Sys2Proof.Machine

-- One theorem is checked after the other: each one only evaluates.
set_option Elab.async false

/-- The parameters most vectors of spec/95 are for: `VLEN = 2`, `N = 2`, `SIDE = 4`. -/
def cfg2 : Config := { Config.decided with vlen := 2 }

/-- The machine right after reset with those parameters. -/
def fresh : State := State.resetWith cfg2

/-- The same under `D1EXT`. -/
def freshD1 : State := State.resetWith cfg2.withD1Ext

/-- A vector register given its lanes. -/
def setV (s : State) (r : Fin 8) (l : List Cplx) : State := { s with vregs := s.vregs.set r l }

/-- The state after the step that runs `w`. -/
def run1 (s : State) (w : InstrWord) : State :=
  match step (s.withFetchWord 128 w.toNat) with
  | .next t => t
  | .fault _ => s
  | .refused _ => s

/-- Bank 1 preloaded with `r + c*i` at row `r`, column `c` (spec/95 section 8), `s5` and `v3` as its
vectors have them. -/
def bank1 : State :=
  let s := (List.range 16).foldl (fun s k => s.loadElem 1 (k / 4) (k % 4)
    ⟨BitVec.ofNat 64 (k / 4 * 2 ^ 32), BitVec.ofNat 64 (k % 4 * 2 ^ 32)⟩) fresh
  setV (s.writeS 5#3 ⟨0x0000000180000000#64, 0xFFFFFFFE00000000#64⟩) 3
    [⟨0x0000000100000000#64, 0x0000000100000000#64⟩, ⟨0x0000000200000000#64, 0x0000000200000000#64⟩]

/-! ### Ill-formed terms -/

/-- `mbid` 4 (47 R182). -/
theorem test_wellFormed_refuses_bank :
    wellFormed Config.decided (.sldXy 1#3 4#4 0#16 0#16) = false
      ∧ wellFormed Config.decided (.vst 1#3 15#4 .row 0#16 0#16) = false
      ∧ wellFormed Config.decided (.sldXy 1#3 3#4 0#16 0#16) = true := by decide
/-- `len16` without `D1EXT` (30 R81), and above `VLEN` (48 R223). -/
theorem test_wellFormed_refuses_length :
    wellFormed Config.decided (.vld 1#3 0#4 .row 0#16 1#16) = false
      ∧ wellFormed Config.decided.withD1Ext (.vld 1#3 0#4 .row 0#16 5#16) = false
      ∧ wellFormed Config.decided.withD1Ext (.vld 1#3 0#4 .row 0#16 4#16) = true := by decide
/-- A lane not below `VLEN` (48 R209). -/
theorem test_wellFormed_refuses_lane :
    wellFormed Config.decided.withD1Ext (.vsload 1#3 1#3 4#16) = false
      ∧ wellFormed Config.decided.withD1Ext (.vsload 1#3 1#3 3#16) = true := by decide
/-- An instruction of `D1EXT` in a BASE build (30 R81). -/
theorem test_wellFormed_refuses_profile :
    wellFormed Config.decided (.cmaxabs 1#3 1#3 1#3) = false
      ∧ wellFormed Config.decided.withD1Ext (.cmaxabs 1#3 1#3 1#3) = true := by decide

/-! ### Decoding and encoding (spec/95 sections 2 and 3) -/

/-- Vectors E1 to E12. -/
theorem test_decode_scalar :
    decode Config.decided 0x010000004C0000000000000000000000#128 = .ok (.cneg 2#3 3#3)
      ∧ decode Config.decided 0x010100004C0000000000000000000000#128 = .ok (.conj 2#3 3#3)
      ∧ decode Config.decided 0x01020000940000000000000000000000#128 = .ok (.csqrt 4#3 5#3)
      ∧ decode Config.decided 0x01030000940000000000000000000000#128 = .ok (.cabs2 4#3 5#3)
      ∧ decode Config.decided 0x01040000940000000000000000000000#128 = .ok (.cabs 4#3 5#3)
      ∧ decode Config.decided 0x01050000DC0000000000000000000000#128 = .ok (.creal 6#3 7#3)
      ∧ decode Config.decided 0x01060000DC0000000000000000000000#128 = .ok (.cimag 6#3 7#3)
      ∧ decode Config.decided 0x01070000280000000000000000000000#128 = .ok (.crecip 1#3 2#3)
      ∧ decode Config.decided 0x01080000650000000000000000000000#128 = .ok (.cadd 3#3 1#3 2#3)
      ∧ decode Config.decided 0x01090000298000000000000000000000#128 = .ok (.csub 1#3 2#3 3#3)
      ∧ decode Config.decided 0x010A0000FA8000000000000000000000#128 = .ok (.cmul 7#3 6#3 5#3)
      ∧ decode Config.decided 0x010B0000888000000000000000000000#128 = .ok (.cdiv 4#3 2#3 1#3) := by decide +kernel
/-- Vectors E1 to E12 the other way. -/
theorem test_encode_scalar :
    [(.cneg 2#3 3#3 : Instr),
      .conj 2#3 3#3,
      .csqrt 4#3 5#3,
      .cabs2 4#3 5#3,
      .cabs 4#3 5#3,
      .creal 6#3 7#3,
      .cimag 6#3 7#3,
      .crecip 1#3 2#3,
      .cadd 3#3 1#3 2#3,
      .csub 1#3 2#3 3#3,
      .cmul 7#3 6#3 5#3,
      .cdiv 4#3 2#3 1#3].map encode
      = [0x010000004C0000000000000000000000#128,
        0x010100004C0000000000000000000000#128,
        0x01020000940000000000000000000000#128,
        0x01030000940000000000000000000000#128,
        0x01040000940000000000000000000000#128,
        0x01050000DC0000000000000000000000#128,
        0x01060000DC0000000000000000000000#128,
        0x01070000280000000000000000000000#128,
        0x01080000650000000000000000000000#128,
        0x01090000298000000000000000000000#128,
        0x010A0000FA8000000000000000000000#128,
        0x010B0000888000000000000000000000#128] := by decide +kernel
/-- Vectors E13 to E17. -/
theorem test_decode_vector :
    decode Config.decided 0x01000001650000000000000000000000#128 = .ok (.vadd 3#3 1#3 2#3)
      ∧ decode Config.decided 0x01010001650000000000000000000000#128 = .ok (.vsub 3#3 1#3 2#3)
      ∧ decode Config.decided 0x01020001970000000000000000000000#128 = .ok (.vmul 4#3 5#3 6#3)
      ∧ decode Config.decided 0x01040001970000000000000000000000#128 = .ok (.vdiv 4#3 5#3 6#3)
      ∧ decode Config.decided 0x01050001E40000000000000000000000#128 = .ok (.vconj 7#3 1#3) := by decide +kernel
/-- Vectors E13 to E17 the other way. -/
theorem test_encode_vector :
    [(.vadd 3#3 1#3 2#3 : Instr),
      .vsub 3#3 1#3 2#3,
      .vmul 4#3 5#3 6#3,
      .vdiv 4#3 5#3 6#3,
      .vconj 7#3 1#3].map encode
      = [0x01000001650000000000000000000000#128,
        0x01010001650000000000000000000000#128,
        0x01020001970000000000000000000000#128,
        0x01040001970000000000000000000000#128,
        0x01050001E40000000000000000000000#128] := by decide +kernel
/-- Vectors E18 to E20. -/
theorem test_decode_reduction :
    decode Config.decided 0x01010002450000000000000000000000#128 = .ok (.dotu 2#3 1#3 2#3)
      ∧ decode Config.decided 0x01020002700000000000000000000000#128 = .ok (.iamax 3#3 4#3)
      ∧ decode Config.decided 0x01030002B80000000000000000000000#128 = .ok (.sum 5#3 6#3) := by decide +kernel
/-- Vectors E18 to E20 the other way. -/
theorem test_encode_reduction :
    [(.dotu 2#3 1#3 2#3 : Instr),
      .iamax 3#3 4#3,
      .sum 5#3 6#3].map encode
      = [0x01010002450000000000000000000000#128,
        0x01020002700000000000000000000000#128,
        0x01030002B80000000000000000000000#128] := by decide +kernel
/-- Vectors E21 to E24. -/
theorem test_decode_broadcast :
    decode Config.decided 0x01180003210000000000000000000000#128 = .ok (.vsadd 1#3 0#3 2#3)
      ∧ decode Config.decided 0x011900034E0000000000000000000000#128 = .ok (.vssub 2#3 3#3 4#3)
      ∧ decode Config.decided 0x011A0003BB8000000000000000000000#128 = .ok (.vsmul 5#3 6#3 7#3)
      ∧ decode Config.decided 0x011B0003298000000000000000000000#128 = .ok (.vsdiv 1#3 2#3 3#3) := by decide +kernel
/-- Vectors E21 to E24 the other way. -/
theorem test_encode_broadcast :
    [(.vsadd 1#3 0#3 2#3 : Instr),
      .vssub 2#3 3#3 4#3,
      .vsmul 5#3 6#3 7#3,
      .vsdiv 1#3 2#3 3#3].map encode
      = [0x01180003210000000000000000000000#128,
        0x011900034E0000000000000000000000#128,
        0x011A0003BB8000000000000000000000#128,
        0x011B0003298000000000000000000000#128] := by decide +kernel
/-- Vectors E25 to E29. -/
theorem test_decode_immediate :
    decode Config.decided 0x020000004000001800001FFFFF000000#128 = .ok (.cloadi 2#3 0x000000C00000#45 0x1FFFFF000000#45)
      ∧ decode Config.decided 0x02010000680000100000000000800000#128 = .ok (.caddI 3#3 2#3 0x000000800000#45 0x000000800000#45)
      ∧ decode Config.decided 0x02020000680000300000000002000000#128 = .ok (.cmulI 3#3 2#3 0x000001800000#45 0x000002000000#45)
      ∧ decode Config.decided 0x02030000240000100000000000000000#128 = .ok (.csubI 1#3 1#3 0x000000800000#45 0x000000000000#45)
      ∧ decode Config.decided 0x02040000680000400000000000000000#128 = .ok (.cdivI 3#3 2#3 0x000002000000#45 0x000000000000#45) := by decide +kernel
/-- Vectors E25 to E29 the other way. -/
theorem test_encode_immediate :
    [(.cloadi 2#3 0x000000C00000#45 0x1FFFFF000000#45 : Instr),
      .caddI 3#3 2#3 0x000000800000#45 0x000000800000#45,
      .cmulI 3#3 2#3 0x000001800000#45 0x000002000000#45,
      .csubI 1#3 1#3 0x000000800000#45 0x000000000000#45,
      .cdivI 3#3 2#3 0x000002000000#45 0x000000000000#45].map encode
      = [0x020000004000001800001FFFFF000000#128,
        0x02010000680000100000000000800000#128,
        0x02020000680000300000000002000000#128,
        0x02030000240000100000000000000000#128,
        0x02040000680000400000000000000000#128] := by decide +kernel
/-- Vectors E30 to E31. -/
theorem test_decode_jump :
    decode Config.decided 0x030000003FFFFFFFC000000000000000#128 = .ok (.jrel 0x1FFFFFFFC#33)
      ∧ decode Config.decided 0x03000000200000003000000000000000#128 = .ok (.jrel 0x000000003#33) := by decide +kernel
/-- Vectors E30 to E31 the other way. -/
theorem test_encode_jump :
    [(.jrel 0x1FFFFFFFC#33 : Instr),
      .jrel 0x000000003#33].map encode
      = [0x030000003FFFFFFFC000000000000000#128,
        0x03000000200000003000000000000000#128] := by decide +kernel
/-- Vectors E32 to E37. -/
theorem test_decode_bank :
    decode Config.decided 0x04000000420006000000000000000000#128 = .ok (.vld 2#3 1#4 .row 3#16 0#16)
      ∧ decode Config.decided 0x04008000420006000000000000000000#128 = .ok (.vld 2#3 1#4 .column 3#16 0#16)
      ∧ decode Config.decided 0x0401000060000A000000000000000000#128 = .ok (.vst 3#3 0#4 .row 5#16 0#16)
      ∧ decode Config.decided 0x0401800060000A000000000000000000#128 = .ok (.vst 3#3 0#4 .column 5#16 0#16)
      ∧ decode Config.decided 0x04020000820004000600000000000000#128 = .ok (.sldXy 4#3 1#4 2#16 3#16)
      ∧ decode Config.decided 0x04030000A40000000E00000000000000#128 = .ok (.sstXy 5#3 2#4 0#16 7#16) := by decide +kernel
/-- Vectors E32 to E37 the other way. -/
theorem test_encode_bank :
    [(.vld 2#3 1#4 .row 3#16 0#16 : Instr),
      .vld 2#3 1#4 .column 3#16 0#16,
      .vst 3#3 0#4 .row 5#16 0#16,
      .vst 3#3 0#4 .column 5#16 0#16,
      .sldXy 4#3 1#4 2#16 3#16,
      .sstXy 5#3 2#4 0#16 7#16].map encode
      = [0x04000000420006000000000000000000#128,
        0x04008000420006000000000000000000#128,
        0x0401000060000A000000000000000000#128,
        0x0401800060000A000000000000000000#128,
        0x04020000820004000600000000000000#128,
        0x04030000A40000000E00000000000000#128] := by decide +kernel
/-- Vectors X1 to X13. -/
theorem test_decode_d1ext :
    decode Config.decided.withD1Ext 0x010C0000650000000000000000000000#128 = .ok (.cmaxabs 3#3 1#3 2#3)
      ∧ decode Config.decided.withD1Ext 0x010D0000650000000000000000000000#128 = .ok (.cminabs 3#3 1#3 2#3)
      ∧ decode Config.decided.withD1Ext 0x010E0000298000000000000000000000#128 = .ok (.cmpltRe 1#3 2#3 3#3)
      ∧ decode Config.decided.withD1Ext 0x010F0000298000000000000000000000#128 = .ok (.cmpgtRe 1#3 2#3 3#3)
      ∧ decode Config.decided.withD1Ext 0x01100000298000000000000000000000#128 = .ok (.cmpleRe 1#3 2#3 3#3)
      ∧ decode Config.decided.withD1Ext 0x01030001650000000000000000000000#128 = .ok (.vmac 3#3 1#3 2#3)
      ∧ decode Config.decided.withD1Ext 0x01000002450000000000000000000000#128 = .ok (.dotc 2#3 1#3 2#3)
      ∧ decode Config.decided.withD1Ext 0x01040002440000000000000000000000#128 = .ok (.asum 2#3 1#3)
      ∧ decode Config.decided.withD1Ext 0x011C0003418000800000000000000000#128 = .ok (.vsload 2#3 3#3 1#16)
      ∧ decode Config.decided.withD1Ext 0x02050000680000000000000001000000#128 = .ok (.cmaxabsI 3#3 2#3 0x000000000000#45 0x000001000000#45)
      ∧ decode Config.decided.withD1Ext 0x02060000680000000000000001000000#128 = .ok (.cminabsI 3#3 2#3 0x000000000000#45 0x000001000000#45)
      ∧ decode Config.decided.withD1Ext 0x02100000680000280000000000000000#128 = .ok (.cscaleI 3#3 2#3 0x000001400000#45)
      ∧ decode Config.decided.withD1Ext 0x04010000200004000000040000000000#128 = .ok (.vst 1#3 0#4 .row 2#16 2#16) := by decide +kernel
/-- Vectors X1 to X13 the other way. -/
theorem test_encode_d1ext :
    [(.cmaxabs 3#3 1#3 2#3 : Instr),
      .cminabs 3#3 1#3 2#3,
      .cmpltRe 1#3 2#3 3#3,
      .cmpgtRe 1#3 2#3 3#3,
      .cmpleRe 1#3 2#3 3#3,
      .vmac 3#3 1#3 2#3,
      .dotc 2#3 1#3 2#3,
      .asum 2#3 1#3,
      .vsload 2#3 3#3 1#16,
      .cmaxabsI 3#3 2#3 0x000000000000#45 0x000001000000#45,
      .cminabsI 3#3 2#3 0x000000000000#45 0x000001000000#45,
      .cscaleI 3#3 2#3 0x000001400000#45,
      .vst 1#3 0#4 .row 2#16 2#16].map encode
      = [0x010C0000650000000000000000000000#128,
        0x010D0000650000000000000000000000#128,
        0x010E0000298000000000000000000000#128,
        0x010F0000298000000000000000000000#128,
        0x01100000298000000000000000000000#128,
        0x01030001650000000000000000000000#128,
        0x01000002450000000000000000000000#128,
        0x01040002440000000000000000000000#128,
        0x011C0003418000800000000000000000#128,
        0x02050000680000000000000001000000#128,
        0x02060000680000000000000001000000#128,
        0x02100000680000280000000000000000#128,
        0x04010000200004000000040000000000#128] := by decide +kernel
/-- Vectors B1, B2, B3. -/
theorem test_decode_refuses_reservedOpcode :
    [0x00000000000000000000000000000000#128,
      0x05000000000000000000000000000000#128,
      0xFFFFFFFFFFFFFFFFFFFFFFFFFFFFFFFF#128].all
      (fun w => decide (decode Config.decided w = .error .reservedOpcode)) = true := by decide +kernel
/-- Vectors B4, B5, B6, B7, B8, B15, B19, B25. -/
theorem test_decode_refuses_reservedSubop :
    [0x010C0000650000000000000000000000#128,
      0x01030001650000000000000000000000#128,
      0x01080001650000000000000000000000#128,
      0x01000002450000000000000000000000#128,
      0x01000003298000000000000000000000#128,
      0x02050000680000000000000001000000#128,
      0x03010000200000001000000000000000#128,
      0x04040000200000000000000000000000#128].all
      (fun w => decide (decode Config.decided w = .error .reservedSubop)) = true := by decide +kernel
/-- Vectors B9, B10, B11, B12, B13, B14, B16, B17, B18, B20, B21, B22. -/
theorem test_decode_refuses_mustBeZero :
    [0x01080000650000000000000000000001#128,
      0x01080000650000800000000000000000#128,
      0x01080004650000000000000000000000#128,
      0x010000004C8000000000000000000000#128,
      0x02000000440000100000000000000000#128,
      0x02010001680000100000000000800000#128,
      0x03000000400000001000000000000000#128,
      0x03000000000000001000000000000000#128,
      0x03000000200000001800000000000000#128,
      0x04000000420006000200000000000000#128,
      0x04000000420006000000020000000000#128,
      0x04028000820004000600000000000000#128].all
      (fun w => decide (decode Config.decided w = .error .mustBeZero)) = true := by decide +kernel
/-- Vectors B23, B24. -/
theorem test_decode_refuses_noSuchBank :
    [0x04020000880004000600000000000000#128,
      0x04020000880012000600000000000000#128].all
      (fun w => decide (decode Config.decided w = .error .noSuchBank)) = true := by decide +kernel
/-- `vsload` with lane 4 and `vld` with `len16` 3, `VLEN` being 2 (vectors Y13, Y20). -/
theorem test_decode_refuses_lane_and_length :
    decode cfg2.withD1Ext 0x011C0003418002000000000000000000#128 = .error .noSuchLane
      ∧ decode cfg2.withD1Ext 0x04000000420006000000060000000000#128 = .error .lengthTooLong := by
  decide +kernel
/-- Section 11: with `MBZ_IGNORED` vectors B9 and B16 decode as E9 and `jrel +1`. -/
theorem test_decode_ignores_mbz :
    decode { Config.decided with mbzIgnored := true } 0x01080000650000000000000000000001#128
        = .ok (.cadd 3#3 1#3 2#3)
      ∧ decode { Config.decided with mbzIgnored := true } 0x03000000400000001000000000000000#128
        = .ok (.jrel 1#33) := by decide +kernel
/-- The byte image of E30 (section 2) decodes from bytes, and the next byte is left over. -/
theorem test_decode_bytes :
    decodeBytes Config.decided [0x00#8, 0x00#8, 0x00#8, 0x00#8, 0x00#8, 0x00#8, 0x00#8, 0xC0#8, 0xFF#8,
        0xFF#8, 0xFF#8, 0x3F#8, 0x00#8, 0x00#8, 0x00#8, 0x03#8, 0xAA#8]
      = .ok (.jrel 0x1FFFFFFFC#33, [0xAA#8]) := by decide +kernel
/-- A table word is read under both profiles' rows. -/
theorem test_decodeTableWord :
    decodeTableWord 128 0x01080000650000000000000000000000 = some (.cadd 3#3 1#3 2#3)
      ∧ decodeTableWord 128 0x010C0000650000000000000000000000 = some (.cmaxabs 3#3 1#3 2#3)
      ∧ decodeTableWord 128 0 = none := by decide +kernel

/-! ### One step of every instruction -/

/-- Vectors A1, A2. -/
theorem test_cneg :
    (run1 (fresh.writeS 1#3 ⟨0x0000000180000000#64, 0xFFFFFFFE00000000#64⟩)
        0x01000000640000000000000000000000#128).readS 3#3 = ⟨0xFFFFFFFE80000000#64, 0x0000000200000000#64⟩
      ∧ (run1 (fresh.writeS 1#3 ⟨0x8000000000000000#64, 0x0000000000000001#64⟩)
        0x01000000640000000000000000000000#128).readS 3#3 = ⟨0x8000000000000000#64, 0xFFFFFFFFFFFFFFFF#64⟩ := by decide +kernel
/-- Vectors A4, A5. -/
theorem test_conj :
    (run1 (fresh.writeS 1#3 ⟨0x0000000100000000#64, 0x0000000200000000#64⟩)
        0x01010000640000000000000000000000#128).readS 3#3 = ⟨0x0000000100000000#64, 0xFFFFFFFE00000000#64⟩
      ∧ (run1 (fresh.writeS 1#3 ⟨0x0000000000000005#64, 0x8000000000000000#64⟩)
        0x01010000640000000000000000000000#128).readS 3#3 = ⟨0x0000000000000005#64, 0x8000000000000000#64⟩ := by decide +kernel
/-- Vectors A12, A10. -/
theorem test_csqrt :
    (run1 (fresh.writeS 1#3 ⟨0x0000000000000000#64, 0xFFFFFFFF00000000#64⟩)
        0x01020000640000000000000000000000#128).readS 3#3 = ⟨0x00000000B504F333#64, 0xFFFFFFFF4AFB0CCC#64⟩
      ∧ (run1 (fresh.writeS 1#3 ⟨0xFFFFFFFD00000000#64, 0x0000000400000000#64⟩)
        0x01020000640000000000000000000000#128).readS 3#3 = ⟨0x0000000100000000#64, 0x0000000200000000#64⟩ := by decide +kernel
/-- Vectors A17, A9. -/
theorem test_csqrt_extreme :
    (run1 (fresh.writeS 1#3 ⟨0x8000000000000000#64, 0x8000000000000000#64⟩)
        0x01020000640000000000000000000000#128).readS 3#3 = ⟨0x000052614BE60FBF#64, 0xFFFF391DEF36151F#64⟩
      ∧ (run1 (fresh.writeS 1#3 ⟨0x0000000000000000#64, 0xFFFFFFFE00000000#64⟩)
        0x01020000640000000000000000000000#128).readS 3#3 = ⟨0x0000000100000000#64, 0xFFFFFFFF00000000#64⟩ := by decide +kernel
/-- Vectors A18, A22. -/
theorem test_cabs2 :
    (run1 (fresh.writeS 1#3 ⟨0x0000000300000000#64, 0x0000000400000000#64⟩)
        0x01030000640000000000000000000000#128).readS 3#3 = ⟨0x0000001900000000#64, 0x0000000000000000#64⟩
      ∧ (run1 (fresh.writeS 1#3 ⟨0x0000B50500000000#64, 0x0000000000000000#64⟩)
        0x01030000640000000000000000000000#128).readS 3#3 = ⟨0x8000121900000000#64, 0x0000000000000000#64⟩ := by decide +kernel
/-- Vectors A24, A27. -/
theorem test_cabs :
    (run1 (fresh.writeS 1#3 ⟨0xFFFFFFFD00000000#64, 0xFFFFFFFC00000000#64⟩)
        0x01040000640000000000000000000000#128).readS 3#3 = ⟨0x0000000500000000#64, 0x0000000000000000#64⟩
      ∧ (run1 (fresh.writeS 1#3 ⟨0x8000000000000000#64, 0x8000000000000000#64⟩)
        0x01040000640000000000000000000000#128).readS 3#3 = ⟨0xB504F333F9DE6484#64, 0x0000000000000000#64⟩ := by decide +kernel
/-- Vector A28. -/
theorem test_creal :
    (run1 (fresh.writeS 1#3 ⟨0x0000000180000000#64, 0xFFFFFFFE00000000#64⟩)
        0x01050000640000000000000000000000#128).readS 3#3 = ⟨0x0000000180000000#64, 0x0000000000000000#64⟩ := by decide +kernel
/-- Vector A29. -/
theorem test_cimag :
    (run1 (fresh.writeS 1#3 ⟨0x0000000180000000#64, 0xFFFFFFFE00000000#64⟩)
        0x01060000640000000000000000000000#128).readS 3#3 = ⟨0xFFFFFFFE00000000#64, 0x0000000000000000#64⟩ := by decide +kernel
/-- Vectors A32, A33. -/
theorem test_crecip :
    (run1 (fresh.writeS 1#3 ⟨0x0000000300000000#64, 0x0000000400000000#64⟩)
        0x01070000640000000000000000000000#128).readS 3#3 = ⟨0x000000001EB851EB#64, 0xFFFFFFFFD70A3D70#64⟩
      ∧ (run1 (fresh.writeS 1#3 ⟨0x0000000000000000#64, 0x0000000000000000#64⟩)
        0x01070000640000000000000000000000#128).readS 3#3 = ⟨0x0000000000000000#64, 0x0000000000000000#64⟩ := by decide +kernel
/-- Vectors A37, A38. -/
theorem test_cadd :
    (run1 ((fresh.writeS 1#3 ⟨0x0000000100000000#64, 0x0000000200000000#64⟩).writeS 2#3
        ⟨0x0000000080000000#64, 0xFFFFFFFE00000000#64⟩)
        0x01080000650000000000000000000000#128).readS 3#3 = ⟨0x0000000180000000#64, 0x0000000000000000#64⟩
      ∧ (run1 ((fresh.writeS 1#3 ⟨0x7FFFFFFFFFFFFFFF#64, 0x0000000000000000#64⟩).writeS 2#3
        ⟨0x0000000000000001#64, 0x0000000000000000#64⟩)
        0x01080000650000000000000000000000#128).readS 3#3 = ⟨0x8000000000000000#64, 0x0000000000000000#64⟩ := by decide +kernel
/-- Vectors A40, A41. -/
theorem test_csub :
    (run1 ((fresh.writeS 1#3 ⟨0x0000000100000000#64, 0x0000000200000000#64⟩).writeS 2#3
        ⟨0x0000000080000000#64, 0xFFFFFFFE00000000#64⟩)
        0x01090000650000000000000000000000#128).readS 3#3 = ⟨0x0000000080000000#64, 0x0000000400000000#64⟩
      ∧ (run1 ((fresh.writeS 1#3 ⟨0x8000000000000000#64, 0x0000000000000000#64⟩).writeS 2#3
        ⟨0x0000000000000001#64, 0x0000000000000000#64⟩)
        0x01090000650000000000000000000000#128).readS 3#3 = ⟨0x7FFFFFFFFFFFFFFF#64, 0x0000000000000000#64⟩ := by decide +kernel
/-- Vectors A43, A50. -/
theorem test_cmul :
    (run1 ((fresh.writeS 1#3 ⟨0x0000000100000000#64, 0x0000000200000000#64⟩).writeS 2#3
        ⟨0x0000000300000000#64, 0x0000000400000000#64⟩)
        0x010A0000650000000000000000000000#128).readS 3#3 = ⟨0xFFFFFFFB00000000#64, 0x0000000A00000000#64⟩
      ∧ (run1 ((fresh.writeS 1#3 ⟨0x0000000080000000#64, 0x0000000040000000#64⟩).writeS 2#3
        ⟨0x0000000000000003#64, 0x0000000000000003#64⟩)
        0x010A0000650000000000000000000000#128).readS 3#3 = ⟨0x0000000000000000#64, 0x0000000000000002#64⟩ := by decide +kernel
/-- Vectors A51, A54. -/
theorem test_cdiv :
    (run1 ((fresh.writeS 1#3 ⟨0xFFFFFFFB00000000#64, 0x0000000A00000000#64⟩).writeS 2#3
        ⟨0x0000000300000000#64, 0x0000000400000000#64⟩)
        0x010B0000650000000000000000000000#128).readS 3#3 = ⟨0x0000000100000000#64, 0x0000000200000000#64⟩
      ∧ (run1 ((fresh.writeS 1#3 ⟨0xFFFFFFFF00000000#64, 0x0000000000000000#64⟩).writeS 2#3
        ⟨0x0000000300000000#64, 0x0000000000000000#64⟩)
        0x010B0000650000000000000000000000#128).readS 3#3 = ⟨0xFFFFFFFFAAAAAAAA#64, 0x0000000000000000#64⟩ := by decide +kernel
/-- Vector V1. -/
theorem test_vadd :
    (run1 (setV (setV fresh 1
        [⟨0x0000000100000000#64, 0x0000000200000000#64⟩,
         ⟨0x7FFFFFFFFFFFFFFF#64, 0x8000000000000000#64⟩]) 2
        [⟨0x0000000080000000#64, 0xFFFFFFFE00000000#64⟩,
         ⟨0x0000000100000000#64, 0xFFFFFFFFFFFFFFFF#64⟩])
        0x01000001650000000000000000000000#128).lanes 3#3
        = [⟨0x0000000180000000#64, 0x0000000000000000#64⟩,
           ⟨0x7FFFFFFFFFFFFFFF#64, 0x8000000000000000#64⟩] := by decide +kernel
/-- Vector V3. -/
theorem test_vsub :
    (run1 (setV fresh 1
        [⟨0x8000000000000000#64, 0x0000000000000001#64⟩,
         ⟨0x0000000100000000#64, 0xFFFFFFFF00000000#64⟩])
        0x01010001608000000000000000000000#128).lanes 3#3
        = [⟨0x7FFFFFFFFFFFFFFF#64, 0xFFFFFFFFFFFFFFFF#64⟩,
           ⟨0xFFFFFFFF00000000#64, 0x0000000100000000#64⟩] := by decide +kernel
/-- Vectors V4, V5. -/
theorem test_vmul :
    (run1 (setV (setV fresh 1
        [⟨0x0000000100000000#64, 0x0000000200000000#64⟩,
         ⟨0x0000000000000000#64, 0x0000000100000000#64⟩]) 2
        [⟨0x0000000300000000#64, 0x0000000400000000#64⟩,
         ⟨0x0000000000000000#64, 0x0000000100000000#64⟩])
        0x01020001650000000000000000000000#128).lanes 3#3
        = [⟨0xFFFFFFFB00000000#64, 0x0000000A00000000#64⟩,
           ⟨0xFFFFFFFF00000000#64, 0x0000000000000000#64⟩]
      ∧ (run1 (setV (setV fresh 1
        [⟨0x0001000000000000#64, 0x0000000000000000#64⟩,
         ⟨0xFFFFFFFFFFFFFFFF#64, 0x0000000000000000#64⟩]) 2
        [⟨0x0001000000000000#64, 0x0000000000000000#64⟩,
         ⟨0x0000000000000001#64, 0x0000000000000000#64⟩])
        0x01020001650000000000000000000000#128).lanes 3#3
        = [⟨0x0000000000000000#64, 0x0000000000000000#64⟩,
           ⟨0xFFFFFFFFFFFFFFFF#64, 0x0000000000000000#64⟩] := by decide +kernel
/-- Vector V6. -/
theorem test_vdiv :
    (run1 (setV (setV fresh 1
        [⟨0xFFFFFFFB00000000#64, 0x0000000A00000000#64⟩,
         ⟨0x0000000100000000#64, 0x0000000100000000#64⟩]) 2
        [⟨0x0000000300000000#64, 0x0000000400000000#64⟩,
         ⟨0x0000000000000000#64, 0x0000000000000000#64⟩])
        0x01040001650000000000000000000000#128).lanes 3#3
        = [⟨0x0000000100000000#64, 0x0000000200000000#64⟩,
           ⟨0x0000000000000000#64, 0x0000000000000000#64⟩] := by decide +kernel
/-- Vector V7. -/
theorem test_vconj :
    (run1 (setV fresh 1
        [⟨0x0000000100000000#64, 0x0000000200000000#64⟩,
         ⟨0x0000000000000007#64, 0x8000000000000000#64⟩])
        0x01050001640000000000000000000000#128).lanes 3#3
        = [⟨0x0000000100000000#64, 0xFFFFFFFE00000000#64⟩,
           ⟨0x0000000000000007#64, 0x8000000000000000#64⟩] := by decide +kernel
/-- Vector V9. -/
theorem test_write_v0_discarded :
    (run1 (setV fresh 1
        [⟨0x0000000100000000#64, 0x0000000200000000#64⟩,
         ⟨0xFFFFFFFD00000000#64, 0x0000000080000000#64⟩])
        0x01000001048000000000000000000000#128).lanes 0#3
        = [⟨0x0000000000000000#64, 0x0000000000000000#64⟩,
           ⟨0x0000000000000000#64, 0x0000000000000000#64⟩] := by decide +kernel
/-- Vectors V10, V11. -/
theorem test_dotu :
    (run1 (setV (setV fresh 1
        [⟨0x0000000100000000#64, 0x0000000200000000#64⟩,
         ⟨0x0000000000000000#64, 0x0000000100000000#64⟩]) 2
        [⟨0x0000000300000000#64, 0x0000000400000000#64⟩,
         ⟨0x0000000000000000#64, 0x0000000100000000#64⟩])
        0x01010002450000000000000000000000#128).readS 2#3 = ⟨0xFFFFFFFA00000000#64, 0x0000000A00000000#64⟩
      ∧ (run1 (setV (setV fresh 1
        [⟨0x0000000080000000#64, 0x0000000000000000#64⟩,
         ⟨0x0000000080000000#64, 0x0000000000000000#64⟩]) 2
        [⟨0x0000000000000001#64, 0x0000000000000000#64⟩,
         ⟨0x0000000000000001#64, 0x0000000000000000#64⟩])
        0x01010002450000000000000000000000#128).readS 2#3 = ⟨0x0000000000000001#64, 0x0000000000000000#64⟩ := by decide +kernel
/-- Vectors V13, V15. -/
theorem test_iamax :
    (run1 (setV (State.resetWith { fresh.cfg with vlen := 4 }) 1
        [⟨0x0000000100000000#64, 0x0000000000000000#64⟩,
         ⟨0x0000000000000000#64, 0xFFFFFFFD00000000#64⟩,
         ⟨0x0000000300000000#64, 0x0000000000000000#64⟩,
         ⟨0x0000000200000000#64, 0x0000000200000000#64⟩])
        0x01020002440000000000000000000000#128).readS 2#3 = ⟨0x0000000100000000#64, 0x0000000000000000#64⟩
      ∧ (run1 (setV (State.resetWith { fresh.cfg with vlen := 4 }) 1
        [⟨0x0000000100000000#64, 0x0000000000000000#64⟩,
         ⟨0x0000000100000000#64, 0x0000000000000000#64⟩,
         ⟨0x0000000100000000#64, 0x0000000000000000#64⟩,
         ⟨0x8000000000000000#64, 0x8000000000000000#64⟩])
        0x01020002440000000000000000000000#128).readS 2#3 = ⟨0x0000000300000000#64, 0x0000000000000000#64⟩ := by decide +kernel
/-- Vectors V16, V17. -/
theorem test_sum :
    (run1 (setV (State.resetWith { fresh.cfg with vlen := 4 }) 1
        [⟨0x0000000100000000#64, 0x0000000200000000#64⟩,
         ⟨0x0000000080000000#64, 0xFFFFFFFE00000000#64⟩,
         ⟨0xFFFFFFFD00000000#64, 0x0000000000000000#64⟩,
         ⟨0x0000000000000000#64, 0x0000000000000000#64⟩])
        0x01030002440000000000000000000000#128).readS 2#3 = ⟨0xFFFFFFFE80000000#64, 0x0000000000000000#64⟩
      ∧ (run1 (setV (State.resetWith { fresh.cfg with vlen := 4 }) 1
        [⟨0x7FFFFFFFFFFFFFFF#64, 0x0000000000000000#64⟩,
         ⟨0x7FFFFFFFFFFFFFFF#64, 0x0000000000000000#64⟩,
         ⟨0x8000000000000000#64, 0x0000000000000000#64⟩,
         ⟨0x8000000000000000#64, 0x0000000000000000#64⟩])
        0x01030002440000000000000000000000#128).readS 2#3 = ⟨0xFFFFFFFFFFFFFFFE#64, 0x0000000000000000#64⟩ := by decide +kernel
/-- Vector V19. -/
theorem test_vsadd :
    (run1 ((setV fresh 1
        [⟨0x0000000100000000#64, 0x0000000200000000#64⟩,
         ⟨0x7FFFFFFFFFFFFFFF#64, 0x0000000000000000#64⟩]).writeS 2#3
        ⟨0x0000000100000000#64, 0xFFFFFFFF00000000#64⟩)
        0x01180003650000000000000000000000#128).lanes 3#3
        = [⟨0x0000000200000000#64, 0x0000000100000000#64⟩,
           ⟨0x7FFFFFFFFFFFFFFF#64, 0xFFFFFFFF00000000#64⟩] := by decide +kernel
/-- Vector V21. -/
theorem test_vssub :
    (run1 ((setV fresh 1
        [⟨0x0000000100000000#64, 0x0000000200000000#64⟩,
         ⟨0x8000000000000000#64, 0x0000000000000000#64⟩]).writeS 2#3
        ⟨0x0000000100000000#64, 0xFFFFFFFF00000000#64⟩)
        0x01190003650000000000000000000000#128).lanes 3#3
        = [⟨0x0000000000000000#64, 0x0000000300000000#64⟩,
           ⟨0x8000000000000000#64, 0x0000000100000000#64⟩] := by decide +kernel
/-- Vector V22. -/
theorem test_vsmul :
    (run1 ((setV fresh 1
        [⟨0x0000000100000000#64, 0x0000000200000000#64⟩,
         ⟨0x0000000000000000#64, 0x0000000100000000#64⟩]).writeS 2#3
        ⟨0x0000000000000000#64, 0x0000000100000000#64⟩)
        0x011A0003650000000000000000000000#128).lanes 3#3
        = [⟨0xFFFFFFFE00000000#64, 0x0000000100000000#64⟩,
           ⟨0xFFFFFFFF00000000#64, 0x0000000000000000#64⟩] := by decide +kernel
/-- Vectors V24, V25. -/
theorem test_vsdiv :
    (run1 ((setV fresh 1
        [⟨0x0000000200000000#64, 0x0000000400000000#64⟩,
         ⟨0x0000000000000000#64, 0x0000000100000000#64⟩]).writeS 2#3
        ⟨0x0000000200000000#64, 0x0000000000000000#64⟩)
        0x011B0003650000000000000000000000#128).lanes 3#3
        = [⟨0x0000000100000000#64, 0x0000000200000000#64⟩,
           ⟨0x0000000000000000#64, 0x0000000080000000#64⟩]
      ∧ (run1 (setV fresh 1
        [⟨0x0000000200000000#64, 0x0000000400000000#64⟩,
         ⟨0x0000000000000000#64, 0x0000000100000000#64⟩])
        0x011B0003640000000000000000000000#128).lanes 3#3
        = [⟨0x0000000000000000#64, 0x0000000000000000#64⟩,
           ⟨0x0000000000000000#64, 0x0000000000000000#64⟩] := by decide +kernel
/-- Vectors I1, I2. -/
theorem test_cloadi :
    (run1 fresh
        0x020000006000001800001FFFFF000000#128).readS 3#3 = ⟨0x0000000180000000#64, 0xFFFFFFFE00000000#64⟩
      ∧ (run1 fresh
        0x020000006200000000000FFFFFFFFFFF#128).readS 3#3 = ⟨0xFFE0000000000000#64, 0x001FFFFFFFFFFE00#64⟩ := by decide +kernel
/-- Vectors I4, I6. -/
theorem test_caddI :
    (run1 (fresh.writeS 2#3 ⟨0x0000000100000000#64, 0x0000000200000000#64⟩)
        0x02010000680000100000000000800000#128).readS 3#3 = ⟨0x0000000200000000#64, 0x0000000300000000#64⟩
      ∧ (run1 (fresh.writeS 2#3 ⟨0x8000000000000000#64, 0x8000000000000001#64⟩)
        0x020100006BFFFFF000001FFFFF800000#128).readS 3#3 = ⟨0x8000000000000000#64, 0x8000000000000000#64⟩ := by decide +kernel
/-- Vectors I7, I9. -/
theorem test_cmulI :
    (run1 (fresh.writeS 2#3 ⟨0x0000000100000000#64, 0x0000000200000000#64⟩)
        0x02020000680000300000000002000000#128).readS 3#3 = ⟨0xFFFFFFFB00000000#64, 0x0000000A00000000#64⟩
      ∧ (run1 (fresh.writeS 2#3 ⟨0x4000000000000000#64, 0xC000000000000000#64⟩)
        0x020200006BFFFFC00000000000000000#128).readS 3#3 = ⟨0x8000000000000000#64, 0x7FFFFFFFFFFFFFFF#64⟩ := by decide +kernel
/-- Vectors I11, I12. -/
theorem test_csubI :
    (run1 (fresh.writeS 2#3 ⟨0x0000000100000000#64, 0x0000000200000000#64⟩)
        0x02030000680000080000000001800000#128).readS 3#3 = ⟨0x0000000080000000#64, 0xFFFFFFFF00000000#64⟩
      ∧ (run1 (fresh.writeS 2#3 ⟨0x8000000000000000#64, 0x0000000000000000#64⟩)
        0x02030000680000100000000000000000#128).readS 3#3 = ⟨0x8000000000000000#64, 0x0000000000000000#64⟩ := by decide +kernel
/-- Vectors I15, I16. -/
theorem test_cdivI :
    (run1 (fresh.writeS 2#3 ⟨0x0000000100000000#64, 0x0000000100000000#64⟩)
        0x02040000680000000000000000000000#128).readS 3#3 = ⟨0x0000000000000000#64, 0x0000000000000000#64⟩
      ∧ (run1 (fresh.writeS 2#3 ⟨0xFFFFFFFF00000000#64, 0x0000000000000000#64⟩)
        0x02040000680000300000000000000000#128).readS 3#3 = ⟨0xFFFFFFFFAAAAAAAA#64, 0x0000000000000000#64⟩ := by decide +kernel
/-- Vectors J2, J3. -/
theorem test_jrel :
    (run1 { fresh.writeS 1#3 ⟨0x0000000000000000#64, 0x0000000000000000#64⟩ with
        pc := 10, progLen := 16 } 0x030000003FFFFFFFC000000000000000#128).pc = 11
      ∧ (run1 { fresh.writeS 1#3 ⟨0x0000000000000000#64, 0x0000000100000000#64⟩ with
        pc := 10, progLen := 16 } 0x030000003FFFFFFFC000000000000000#128).pc = 6 := by decide +kernel
/-- Vectors J8, J9. -/
theorem test_jrel_far :
    (run1 { fresh.writeS 1#3 ⟨0x0000000100000000#64, 0x0000000000000000#64⟩ with
        pc := 10, progLen := 16 } 0x03000000200000007000000000000000#128).pc = 17
      ∧ (run1 { fresh.writeS 1#3 ⟨0x0000000100000000#64, 0x0000000000000000#64⟩ with
        pc := 3, progLen := 16 } 0x030000003FFFFFFFC000000000000000#128).pc = -1 := by decide +kernel
/-- Vectors M1, M2. -/
theorem test_vld :
    (run1 bank1 0x04000000420006000000000000000000#128).lanes 2#3
        = [⟨0x0000000300000000#64, 0x0000000000000000#64⟩,
           ⟨0x0000000300000000#64, 0x0000000100000000#64⟩]
      ∧ (run1 bank1 0x04008000420006000000000000000000#128).lanes 2#3
        = [⟨0x0000000000000000#64, 0x0000000300000000#64⟩,
           ⟨0x0000000100000000#64, 0x0000000300000000#64⟩] := by decide +kernel
/-- Vectors M4, M5. -/
theorem test_vld_trap :
    (run1 bank1 0x0400800043FFFE000000000000000000#128)
        = { bank1.withFetchWord 128 0x0400800043FFFE000000000000000000 with
            fault := some (.bankBoundsTrap 1#4 0#16 65535#16) }
      ∧ (run1 bank1 0x04000000020008000000000000000000#128)
        = { bank1.withFetchWord 128 0x04000000020008000000000000000000 with
            fault := some (.bankBoundsTrap 1#4 4#16 0#16) } := by decide +kernel
/-- Vectors M14, M15. -/
theorem test_vst :
    (run1 bank1 0x04010000600004000000000000000000#128).bankRead 0 2 0 = ⟨0x0000000100000000#64, 0x0000000100000000#64⟩
      ∧ (run1 bank1 0x04010000600004000000000000000000#128).bankRead 0 2 1 = ⟨0x0000000200000000#64, 0x0000000200000000#64⟩
      ∧ (run1 bank1 0x04018000600006000000000000000000#128).bankRead 0 0 3 = ⟨0x0000000100000000#64, 0x0000000100000000#64⟩
      ∧ (run1 bank1 0x04018000600006000000000000000000#128).bankRead 0 1 3 = ⟨0x0000000200000000#64, 0x0000000200000000#64⟩ := by decide +kernel
/-- Vector M17. -/
theorem test_vst_trap :
    (run1 bank1 0x04018000600008000000000000000000#128)
        = { bank1.withFetchWord 128 0x04018000600008000000000000000000 with
            fault := some (.bankBoundsTrap 0#4 0#16 4#16) } := by decide +kernel
/-- Vector M7. -/
theorem test_sldXy :
    (run1 bank1 0x04020000820004000600000000000000#128).readS 4#3 = ⟨0x0000000300000000#64, 0x0000000200000000#64⟩ := by decide +kernel
/-- Vector M10. -/
theorem test_sldXy_trap :
    (run1 bank1 0x04020000820000000800000000000000#128)
        = { bank1.withFetchWord 128 0x04020000820000000800000000000000 with
            fault := some (.bankBoundsTrap 1#4 4#16 0#16) } := by decide +kernel
/-- Vectors M11, M12. -/
theorem test_sstXy :
    (run1 bank1 0x04030000A40000000600000000000000#128).bankRead 2 3 0 = ⟨0x0000000180000000#64, 0xFFFFFFFE00000000#64⟩
      ∧ (run1 bank1 0x04030000020002000200000000000000#128).bankRead 1 1 1 = ⟨0x0000000000000000#64, 0x0000000000000000#64⟩ := by decide +kernel
/-- Vector M13. -/
theorem test_sstXy_trap :
    (run1 bank1 0x04030000A40008000800000000000000#128)
        = { bank1.withFetchWord 128 0x04030000A40008000800000000000000 with
            fault := some (.bankBoundsTrap 2#4 4#16 4#16) } := by decide +kernel
/-- Section 8: the byte image of (1.5, -2.0) at element (3, 0), bytes 192 to 207. -/
theorem test_element_image :
    (List.range 16).map (fun j => (fresh.bankWrite 2 3 0
        ⟨0x0000000180000000#64, 0xFFFFFFFE00000000#64⟩).byte (.bank 2) (192 + j))
      = [0x00#8, 0x00#8, 0x00#8, 0x80#8, 0x01#8, 0x00#8, 0x00#8, 0x00#8,
         0x00#8, 0x00#8, 0x00#8, 0x00#8, 0xFE#8, 0xFF#8, 0xFF#8, 0xFF#8] := by decide +kernel
/-- Vectors Y1, Y2. -/
theorem test_cmaxabs :
    (run1 ((freshD1.writeS 1#3
        ⟨0x0000000300000000#64, 0x0000000400000000#64⟩).writeS 2#3
        ⟨0x0000000000000000#64, 0xFFFFFFFB00000000#64⟩)
        0x010C0000650000000000000000000000#128).readS 3#3 = ⟨0x0000000300000000#64, 0x0000000400000000#64⟩
      ∧ (run1 ((freshD1.writeS 1#3
        ⟨0x0000000100000000#64, 0x0000000100000000#64⟩).writeS 2#3
        ⟨0x0000000000000000#64, 0xFFFFFFFB00000000#64⟩)
        0x010C0000650000000000000000000000#128).readS 3#3 = ⟨0x0000000000000000#64, 0xFFFFFFFB00000000#64⟩ := by decide +kernel
/-- Vector Y3. -/
theorem test_cminabs :
    (run1 ((freshD1.writeS 1#3
        ⟨0x0000000300000000#64, 0x0000000400000000#64⟩).writeS 2#3
        ⟨0x0000000100000000#64, 0x0000000100000000#64⟩)
        0x010D0000650000000000000000000000#128).readS 3#3 = ⟨0x0000000100000000#64, 0x0000000100000000#64⟩ := by decide +kernel
/-- Vector Y5. -/
theorem test_cmpltRe :
    (run1 ((freshD1.writeS 1#3
        ⟨0x8000000000000000#64, 0x0000000000000000#64⟩).writeS 2#3
        ⟨0x7FFFFFFFFFFFFFFF#64, 0x0000000000000000#64⟩)
        0x010E0000650000000000000000000000#128).readS 3#3 = ⟨0x0000000100000000#64, 0x0000000000000000#64⟩ := by decide +kernel
/-- Vector Y6. -/
theorem test_cmpgtRe :
    (run1 ((freshD1.writeS 1#3
        ⟨0x0000000200000000#64, 0x0000000000000000#64⟩).writeS 2#3
        ⟨0x0000000200000000#64, 0x0000000500000000#64⟩)
        0x010F0000650000000000000000000000#128).readS 3#3 = ⟨0x0000000000000000#64, 0x0000000000000000#64⟩ := by decide +kernel
/-- Vector Y7. -/
theorem test_cmpleRe :
    (run1 ((freshD1.writeS 1#3
        ⟨0x0000000200000000#64, 0x0000000000000000#64⟩).writeS 2#3
        ⟨0x0000000200000000#64, 0x0000000500000000#64⟩)
        0x01100000650000000000000000000000#128).readS 3#3 = ⟨0x0000000100000000#64, 0x0000000000000000#64⟩ := by decide +kernel
/-- Vector Y8. -/
theorem test_vmac :
    (run1 (setV (setV (setV freshD1 3
        [⟨0x0000000100000000#64, 0x0000000100000000#64⟩,
         ⟨0x0000000000000000#64, 0x0000000000000000#64⟩]) 1
        [⟨0x0000000100000000#64, 0x0000000200000000#64⟩,
         ⟨0x0000000080000000#64, 0x0000000000000000#64⟩]) 2
        [⟨0x0000000300000000#64, 0x0000000400000000#64⟩,
         ⟨0x0000000000000001#64, 0x0000000000000000#64⟩])
        0x01030001650000000000000000000000#128).lanes 3#3
        = [⟨0xFFFFFFFC00000000#64, 0x0000000B00000000#64⟩,
           ⟨0x0000000000000000#64, 0x0000000000000000#64⟩] := by decide +kernel
/-- Vector Y9. -/
theorem test_dotc :
    (run1 (setV (setV freshD1 1
        [⟨0x0000000100000000#64, 0x0000000200000000#64⟩,
         ⟨0x0000000000000000#64, 0x0000000000000000#64⟩]) 2
        [⟨0x0000000300000000#64, 0x0000000400000000#64⟩,
         ⟨0x0000000900000000#64, 0x0000000900000000#64⟩])
        0x01000002650000000000000000000000#128).readS 3#3 = ⟨0x0000000B00000000#64, 0xFFFFFFFE00000000#64⟩ := by decide +kernel
/-- Vector Y11. -/
theorem test_asum :
    (run1 (setV freshD1 1
        [⟨0x0000000100000000#64, 0x0000000100000000#64⟩,
         ⟨0x0000000100000000#64, 0x0000000100000000#64⟩])
        0x01040002640000000000000000000000#128).readS 3#3 = ⟨0x00000002D413CCCE#64, 0x0000000000000000#64⟩ := by decide +kernel
/-- Vector Y12. -/
theorem test_vsload :
    (run1 (setV ((State.resetWith { freshD1.cfg with vlen := 4 }).writeS 3#3
        ⟨0x0000000700000000#64, 0x0000000000000000#64⟩) 2
        [⟨0x0000000100000000#64, 0x0000000100000000#64⟩,
         ⟨0x0000000200000000#64, 0x0000000200000000#64⟩,
         ⟨0x0000000300000000#64, 0x0000000300000000#64⟩,
         ⟨0x0000000400000000#64, 0x0000000400000000#64⟩])
        0x011C0003418000800000000000000000#128).lanes 2#3
        = [⟨0x0000000100000000#64, 0x0000000100000000#64⟩,
           ⟨0x0000000700000000#64, 0x0000000000000000#64⟩,
           ⟨0x0000000300000000#64, 0x0000000300000000#64⟩,
           ⟨0x0000000400000000#64, 0x0000000400000000#64⟩] := by decide +kernel
/-- Vector Y14. -/
theorem test_cmaxabsI :
    (run1 (freshD1.writeS 2#3
        ⟨0x0000000100000000#64, 0x0000000000000000#64⟩)
        0x02050000680000000000000001000000#128).readS 3#3 = ⟨0x0000000000000000#64, 0x0000000200000000#64⟩ := by decide +kernel
/-- Vector Y15. -/
theorem test_cminabsI :
    (run1 (freshD1.writeS 2#3
        ⟨0x0000000100000000#64, 0x0000000000000000#64⟩)
        0x02060000680000000000000001000000#128).readS 3#3 = ⟨0x0000000100000000#64, 0x0000000000000000#64⟩ := by decide +kernel
/-- Vector Y16. -/
theorem test_cscaleI :
    (run1 (freshD1.writeS 2#3
        ⟨0x0000000100000000#64, 0xFFFFFFFE00000000#64⟩)
        0x02100000680000280000000000000000#128).readS 3#3 = ⟨0x0000000280000000#64, 0xFFFFFFFB00000000#64⟩ := by decide +kernel
/-- Vectors Y18 and Y19: a short store writes two elements, a short load its first lane. -/
theorem test_short_transfers :
    (run1 (setV (State.resetWith Config.decided.withD1Ext) 1 [⟨1#64, 1#64⟩, ⟨2#64, 2#64⟩, ⟨3#64, 3#64⟩,
        ⟨4#64, 4#64⟩]) 0x04010000200004000000040000000000#128).banks[0].length = 32
      ∧ (run1 { bank1 with cfg := cfg2.withD1Ext } 0x04000000420006000000020000000000#128).lane 2#3 0
        = ⟨0x0000000300000000#64, 0#64⟩ := by decide +kernel

/-! ### Other parameters (spec/95 section 11) -/

/-- A12, A36 with `FRAC_ROUND = toward_zero`. -/
theorem test_toward_zero :
    (run1 (({ fresh with cfg := { cfg2 with fracRound := .towardZero } } : State).writeS 1#3 ⟨0x0000000000000000#64, 0xFFFFFFFF00000000#64⟩)
        0x01020000640000000000000000000000#128).readS 3#3 = ⟨0x00000000B504F333#64, 0xFFFFFFFF4AFB0CCD#64⟩
      ∧ (run1 (({ fresh with cfg := { cfg2 with fracRound := .towardZero } } : State).writeS 1#3 ⟨0xFFFFFFFD00000000#64, 0x0000000000000000#64⟩)
        0x01070000640000000000000000000000#128).readS 3#3 = ⟨0xFFFFFFFFAAAAAAAB#64, 0x0000000000000000#64⟩ := by decide +kernel
/-- A27, A42 with `OVF_TRUNC = saturate`. -/
theorem test_truncate_saturates :
    (run1 (({ fresh with cfg := { cfg2 with ovfTrunc := .saturate } } : State).writeS 1#3 ⟨0x8000000000000000#64, 0x8000000000000000#64⟩)
        0x01040000640000000000000000000000#128).readS 3#3 = ⟨0x7FFFFFFFFFFFFFFF#64, 0x0000000000000000#64⟩
      ∧ (run1 ((({ fresh with cfg := { cfg2 with ovfTrunc := .saturate } } : State).writeS 1#3 ⟨0x0000000000000000#64, 0x0000000000000000#64⟩).writeS 2#3
        ⟨0x8000000000000000#64, 0x0000000000000000#64⟩)
        0x01090000650000000000000000000000#128).readS 3#3 = ⟨0x7FFFFFFFFFFFFFFF#64, 0x0000000000000000#64⟩ := by decide +kernel
/-- A34 with `OVF_UNSPEC = saturate`. -/
theorem test_unspecified_saturates :
    (run1 (({ fresh with cfg := { cfg2 with ovfUnspec := .saturate } } : State).writeS 1#3 ⟨0x0000000000000001#64, 0x0000000000000000#64⟩)
        0x01070000640000000000000000000000#128).readS 3#3 = ⟨0x7FFFFFFFFFFFFFFF#64, 0x0000000000000000#64⟩ := by decide +kernel
/-- V13 with `IAMAX_FORMAT = raw`, Y7 with `BOOL_FORMAT = raw`. -/
theorem test_raw_formats :
    (run1 (setV (State.resetWith { Config.decided with iamaxFormat := .raw }) 1
        [⟨one64, 0#64⟩, ⟨0#64, 0xFFFFFFFD00000000#64⟩, ⟨0x0000000300000000#64, 0#64⟩, Cplx.zero])
        0x01020002440000000000000000000000#128).readS 2#3 = ⟨1#64, 0#64⟩
      ∧ (run1 (((State.resetWith { cfg2.withD1Ext with boolFormat := .raw }).writeS 1#3 ⟨one64, 0#64⟩).writeS
          2#3 ⟨one64, 0x0000000500000000#64⟩)
        0x01100000650000000000000000000000#128).readS 3#3 = ⟨1#64, 0#64⟩ := by decide +kernel

/-! ### Exceptions and the ends of a run -/

/-- `pc` outside the program raises `FetchFault`; at its end and in the faulted state no step is taken
(60 R233, R236; 70 R266). -/
theorem test_ends :
    step { fresh with pc := 17, progLen := 16 }
        = .next { fresh with pc := 17, progLen := 16, fault := some (.fetchFault 17) }
      ∧ step { fresh with pc := -1, progLen := 16 }
        = .next { fresh with pc := -1, progLen := 16, fault := some (.fetchFault (-1)) }
      ∧ step { fresh with pc := 16, progLen := 16 } = .fault .endOfRun
      ∧ step { fresh with fault := some (.fetchFault 17) } = .fault (.faulted (.fetchFault 17)) := by
  refine ⟨rfl, rfl, rfl, rfl⟩
/-- An illegal word changes the fault record alone (60 R232). -/
theorem test_illegal :
    run1 fresh 0xFFFFFFFFFFFFFFFFFFFFFFFFFFFFFFFF#128
      = { fresh.withFetchWord 128 0xFFFFFFFFFFFFFFFFFFFFFFFFFFFFFFFF with
          fault := some (.illegalInstruction 0xFFFFFFFFFFFFFFFFFFFFFFFFFFFFFFFF#128) } := by decide +kernel
/-! ### Witnesses: for each statement with hypotheses, a state and operands that meet them together -/

/-- A one-word program, at its start. -/
def loaded (w : Nat) : State := fresh.withFetchWord 128 w

/-- The next state of an outcome, if it is one. -/
def nextOf : Host.Outcome State Fault Refusal → Option State
  | .next t => some t
  | .fault _ => none
  | .refused _ => none

theorem eq_next_of_nextOf {o : Host.Outcome State Fault Refusal} {t : State} (h : nextOf o = some t) :
    o = .next t := by
  cases o <;> cases h; rfl

/-- `VLEN` lanes and lane 3 as operands, and every form of an access. -/
theorem witness_DecodeOfEncode :
    wellFormed Config.decided (.vld 7#3 3#4 .column 0xFFFF#16 0#16) = true
      ∧ wellFormed Config.decided.withD1Ext (.vst 7#3 0#4 .row 0#16 4#16) = true
      ∧ wellFormed Config.decided.withD1Ext (.vsload 7#3 7#3 3#16) = true
      ∧ wellFormed Config.decided (.jrel 0x100000000#33) = true := by decide
theorem witness_EncodeOfDecode :
    Config.decided.mbzIgnored = false
      ∧ decode Config.decided 0x04030000A40000000E00000000000000#128 = .ok (.sstXy 5#3 2#4 0#16 7#16) := by
  decide +kernel
theorem witness_DecodedIsWellFormed :
    decode Config.decided.withD1Ext 0x04010000200004000000040000000000#128
      = .ok (.vst 1#3 0#4 .row 2#16 2#16) := by decide +kernel

/-- A word of an opcode, mapping and subop, every other bit zero. -/
def selecting (x : Nat × Nat × Nat) : InstrWord :=
  BitVec.ofNat 128 (x.1 * 2 ^ 120 + x.2.2 * 2 ^ 112 + x.2.1 * 2 ^ 96)

/-- Words of both ends of every reserved range of both profiles, and words beside each range. -/
theorem witness_ReservedEncodingsRefused :
    (∀ x ∈ ([(1, 0, 0x0C), (1, 1, 3), (2, 0, 5), (3, 0, 1), (4, 0, 4)] : List (Nat × Nat × Nat)),
      (opcodeOf (selecting x)).toNat = x.1 ∧ (mappingOf (selecting x)).toNat = x.2.1
        ∧ (subopOf (selecting x)).toNat = x.2.2)
      ∧ Config.decided.d1ext = false ∧ Config.decided.withD1Ext.d1ext = true
      ∧ (∀ x ∈ ([(0, 0, 0), (5, 0, 0), (255, 0, 0)] : List (Nat × Nat × Nat)),
        decode Config.decided (selecting x) = .error .reservedOpcode)
      ∧ (∀ x ∈ ([(1, 0, 0x0C), (1, 0, 0xFF), (1, 1, 0x03), (1, 1, 0x06), (1, 1, 0xFF), (1, 2, 0x00),
          (1, 2, 0x04), (1, 2, 0xFF), (1, 3, 0x00), (1, 3, 0x17), (1, 3, 0x1C), (1, 3, 0xFF), (2, 0, 0x05),
          (2, 0, 0xFF), (3, 0, 0x01), (3, 0, 0xFF), (4, 0, 0x04), (4, 0, 0xFF)] : List (Nat × Nat × Nat)),
        decode Config.decided (selecting x) = .error .reservedSubop)
      ∧ (∀ x ∈ ([(1, 0, 0x11), (1, 0, 0xFF), (1, 1, 0x06), (1, 2, 0x05), (1, 3, 0x17), (1, 3, 0x1D),
          (2, 0, 0x07), (2, 0, 0x0F), (2, 0, 0x11), (3, 0, 0x01), (4, 0, 0x04)] : List (Nat × Nat × Nat)),
        decode Config.decided.withD1Ext (selecting x) = .error .reservedSubop)
      ∧ ∀ x ∈ ([(1, 0, 0x0B), (1, 0, 0x10), (1, 1, 0x05), (1, 2, 0x04), (1, 3, 0x18), (1, 3, 0x1C),
          (2, 0, 0x06), (2, 0, 0x10), (4, 0, 0x03)] : List (Nat × Nat × Nat)),
        (decode Config.decided.withD1Ext (selecting x)).isOk = true := by
  decide +kernel

theorem witness_StepRunsDecodedInstruction :
    let s := loaded 0x01080000650000000000000000000000
    s.fault = none ∧ 0 ≤ s.pc ∧ s.pc < s.progLen ∧ decode s.cfg s.fetchWord = .ok (.cadd 3#3 1#3 2#3) := by
  decide +kernel
theorem witness_StepRaisesIllegalInstruction :
    let s := loaded 0
    s.fault = none ∧ 0 ≤ s.pc ∧ s.pc < s.progLen ∧ decode s.cfg s.fetchWord = .error .reservedOpcode := by
  decide +kernel
/-- One before the program, and one past its end. -/
theorem witness_StepRaisesFetchFault :
    let s : State := { fresh with pc := -1, progLen := 16 }
    let t : State := { fresh with pc := 17, progLen := 16 }
    s.fault = none ∧ s.pc < 0 ∧ t.fault = none ∧ (t.progLen : Int) < t.pc := by decide
theorem witness_NoStepAfterFaultOrEnd :
    let s : State := { fresh with fault := some (.fetchFault 17) }
    s.fault ≠ none ∧ s.pc = s.progLen ∧ fresh.fault = none ∧ fresh.pc = fresh.progLen := by decide

/-- A loaded program that meets the invariant and steps, one that jumps, and one that traps. -/
theorem witness_StepKeepsInvariant :
    let s := loaded 0x01080000650000000000000000000000
    s.Inv ∧ step s = .next { s with pc := 1, sregs := s.sregs.set 3 Cplx.zero } :=
  ⟨⟨by decide, by decide, by decide, by decide, by decide, by decide +kernel, by decide, by decide, trivial⟩,
    eq_next_of_nextOf (by decide +kernel)⟩
theorem witness_StepKeepsBuildAndProgram :
    let s := loaded 0x04030000A40000000E00000000000000
    step s = .next { s with fault := some (.bankBoundsTrap 2#4 7#16 0#16) } :=
  eq_next_of_nextOf (by decide +kernel)
theorem witness_ExceptionChangesOnlyFaultRecord :
    let s := fresh
    let t : State := { s with fault := some (.bankBoundsTrap 2#4 7#16 0#16) }
    s.fault = none ∧ exec (.sstXy 5#3 2#4 0#16 7#16) s = .next t ∧ t.fault ≠ none
      ∧ step (loaded 0) = .next { loaded 0 with fault := some (.illegalInstruction 0#128) } :=
  ⟨rfl, eq_next_of_nextOf (by decide +kernel), by decide, eq_next_of_nextOf (by decide +kernel)⟩
theorem witness_ArithmeticNeverTraps :
    mayRaise (.cdiv 3#3 1#3 0#3) = false ∧ mayRaise (.jrel 0x100000000#33) = false := by decide
theorem witness_PcAdvancesByOne :
    let t := (bank1.writeS 4#3 (bank1.bankRead 1 3 2)).advance
    (∀ o, Instr.sldXy 4#3 1#4 2#16 3#16 ≠ .jrel o) ∧ bank1.fault = none
      ∧ exec (.sldXy 4#3 1#4 2#16 3#16) bank1 = .next t ∧ t.fault = none :=
  ⟨(fun _ h => nomatch h), by decide +kernel, eq_next_of_nextOf (by decide +kernel), by decide +kernel⟩
theorem witness_OnlyStoresWriteBanks :
    storesToBank (.vld 2#3 1#4 .column 3#16 0#16) = false ∧ storesToBank (.jrel 0#33) = false := by decide
theorem witness_LoadedWordIsFetchedAndRun :
    decode (fresh.withFetchWord 128 (0x03000000200000003000000000000000#128).toNat).cfg
        0x03000000200000003000000000000000#128 = .ok (.jrel 3#33)
      ∧ decode (fresh.withFetchWord 128 (0x010C0000650000000000000000000000#128).toNat).cfg
        0x010C0000650000000000000000000000#128 = .ok (.cmaxabs 3#3 1#3 2#3) := by decide +kernel

/-- A destination that is written and one that is not, as the results of ScalarResult and VectorResult
distinguish them; a zero and a nonzero operand of `cabs` and `csqrt`. -/
theorem witness_results :
    (3#3 : SReg) ≠ 0#3 ∧ (0#3 : SReg) = 0#3 ∧ fresh.readS 1#3 = Cplx.zero
      ∧ (bank1.readS 5#3) ≠ Cplx.zero ∧ 1 < fresh.cfg.vlen := by decide
theorem witness_IndexOfLargestMagnitude :
    1 ≤ ({ cfg2 with vlen := 1 } : Config).vlen ∧ cfg2.iamaxFormat = .q32_32
      ∧ ({ cfg2 with iamaxFormat := .raw } : Config).iamaxFormat = .raw := by decide
/-- The immediate (1.5, -2) widened, and the most negative one. -/
theorem witness_ImmediateArithmetic :
    let c : Cplx := ⟨0x0000000180000000#64, 0xFFFFFFFE00000000#64⟩
    c.re.toInt = (0x000000C00000#45).toInt * 2 ^ 9 ∧ c.im.toInt = (0x1FFFFF000000#45).toInt * 2 ^ 9
      ∧ (0xFFE0000000000000#64).toInt = (0x100000000000#45).toInt * 2 ^ 9 := by decide
theorem witness_LargerAndSmallerMagnitude :
    (0x001FFFFFFFFFFE00#64).toInt = (0x0FFFFFFFFFFF#45).toInt * 2 ^ 9
      ∧ (0#64 : Half).toInt = (0#45).toInt * 2 ^ 9 := by decide
/-- Each half alone makes the predicate true; both zero make it false. -/
theorem witness_JumpOnNonzeroPredicate :
    (((fresh.writeS 1#3 ⟨1#64, 0#64⟩).readS 1#3).re ≠ 0#64)
      ∧ (((fresh.writeS 1#3 ⟨0#64, 1#64⟩).readS 1#3).im ≠ 0#64)
      ∧ ((fresh.readS 1#3).re = 0#64 ∧ (fresh.readS 1#3).im = 0#64) := by decide

/-- Bank 3, the last row or column, and `len16` 0, 1 and `VLEN`. -/
theorem witness_VectorLoadReadsRowOrColumn :
    (3#4).toNat = (3 : Fin 4) ∧ (3#16).toNat < fresh.cfg.side ∧ (0#16).toNat ≤ fresh.cfg.vlen
      ∧ (1#16).toNat ≤ fresh.cfg.vlen ∧ (2#16).toNat = fresh.cfg.vlen := by decide
theorem witness_VectorStoreWritesRowOrColumn :
    (0#4).toNat = (0 : Fin 4) ∧ (0#16).toNat < fresh.cfg.side ∧ (2#16).toNat ≤ fresh.cfg.vlen
      ∧ transferLength fresh.cfg 0#16 = 2 ∧ transferLength fresh.cfg 1#16 = 1 := by decide
theorem witness_ScalarLoadReadsElement :
    (3#4).toNat = (3 : Fin 4) ∧ (3#16).toNat < fresh.cfg.side ∧ (0#16).toNat < fresh.cfg.side := by decide
theorem witness_ScalarStoreWritesElementImage :
    (0#4).toNat = (0 : Fin 4) ∧ (0#16).toNat < fresh.cfg.side ∧ (3#16).toNat < fresh.cfg.side := by decide
/-- Only the row, only the column, and both at `SIDE`; an index of `SIDE` and one of 65535. -/
theorem witness_OutOfBoundsCoordinatesTrap :
    (3#4).toNat < 4 ∧ fresh.cfg.side ≤ (4#16).toNat ∧ ¬ fresh.cfg.side ≤ (3#16).toNat
      ∧ fresh.cfg.side ≤ (0xFFFF#16).toNat ∧ (2#16).toNat ≤ fresh.cfg.vlen := by decide
/-- `mbid` 4 and 15, for the first and the last subop. -/
theorem witness_BankNumberAboveThreeIsIllegal :
    let s := loaded 0x04030000880004000600000000000000
    let t := loaded 0x040000001E0000000000000000000000
    (s.fault = none ∧ 0 ≤ s.pc ∧ s.pc < s.progLen ∧ opcodeOf s.fetchWord = 0x04#8
        ∧ (subopOf s.fetchWord).toNat = 3 ∧ (mbidOf s.fetchWord).toNat = 4)
      ∧ t.fault = none ∧ 0 ≤ t.pc ∧ t.pc < t.progLen ∧ opcodeOf t.fetchWord = 0x04#8
        ∧ (subopOf t.fetchWord).toNat = 0 ∧ (mbidOf t.fetchWord).toNat = 15 := by decide +kernel
theorem witness_StoreThenLoadScalar :
    (2#4).toNat = (2 : Fin 4) ∧ (3#16).toNat < fresh.cfg.side
      ∧ ¬ ((2 : Fin 4) = 2 ∧ 3 = 3 ∧ 2 = 3) := by decide
theorem witness_StoreThenLoadVector :
    (3#4).toNat = (3 : Fin 4) ∧ (3#16).toNat < fresh.cfg.side ∧ (1#3 : VReg) ≠ 0#3 ∧ (7#3 : SReg) ≠ 0#3
      ∧ (1#16).toNat < fresh.cfg.vlen ∧ (1#16).toNat < fresh.cfg.side := by decide
/-- The last lane, and the first that is none. -/
theorem witness_LoadOneLane :
    (1#16).toNat < freshD1.cfg.vlen ∧ freshD1.cfg.vlen ≤ (2#16).toNat := by decide

/-- A sum and a product at the ends of the range, and one past each. -/
theorem witness_ExactInRangeWhateverTheFreeValue :
    InRange ((0x4000000000000000#64).toInt + (0x3FFFFFFFFFFFFFFF#64).toInt)
      ∧ ¬ InRange ((0x4000000000000000#64).toInt + (0x4000000000000000#64).toInt)
      ∧ InRange ((0x8000000000000000#64).toInt * one64.toInt / 2 ^ 32)
      ∧ ¬ InRange ((0x8000000000000000#64).toInt * (-one64).toInt / 2 ^ 32)
      ∧ 1 < bank1.cfg.vlen ∧ (3#3 : SReg) ≠ 0#3 := by decide
/-- The half that is its own negation, and one that is not. -/
theorem witness_NegateAndConjugate :
    (0x8000000000000000#64).toInt = -2 ^ 63 ∧ -0x8000000000000000#64 = 0x8000000000000000#64
      ∧ -1#64 ≠ 1#64 := by decide
/-- The last row and column of the last bank, and the first of the first; byte 15 of the image is the
top byte of `im`. -/
theorem witness_ElementImageIsLittleEndian :
    (3#4).toNat = (3 : Fin 4) ∧ (3#16).toNat < fresh.cfg.side ∧ ¬ (4#16).toNat < fresh.cfg.side
      ∧ (0#4).toNat = (0 : Fin 4) ∧ (0#16).toNat < fresh.cfg.side
      ∧ (fresh.loadElem 3 3 3 ⟨0x0807060504030201#64, 0x100F0E0D0C0B0A09#64⟩).byte (.bank 3)
          (elemAddr fresh.cfg 3 3 + 15) = 0x10#8 := by decide +kernel
/-- Each cause: pc one past the end and one before the start, the all-zero word, and a coordinate at
`SIDE` in both directions of a vector and in each axis of a scalar access. -/
theorem witness_OnlyThreeCausesRaise :
    (∀ p ∈ ([-1, 17] : List Int), step ({ fresh with pc := p, progLen := 16 })
        = .next { fresh with pc := p, progLen := 16, fault := some (.fetchFault p) })
      ∧ step (loaded 0) = .next { loaded 0 with fault := some (.illegalInstruction 0#128) }
      ∧ ∀ x ∈ ([(.vld 2#3 3#4 .row 4#16 0#16, 4#16, 0#16), (.vst 0#3 3#4 .column 4#16 0#16, 0#16, 4#16),
          (.sldXy 2#3 3#4 4#16 3#16, 3#16, 4#16), (.sstXy 2#3 3#4 3#16 4#16, 4#16, 3#16)]
          : List (Instr × BitVec 16 × BitVec 16)),
        nextOf (step (loaded (encode x.1).toNat)) = some { loaded (encode x.1).toNat with
          fault := some (.bankBoundsTrap 3#4 x.2.1 x.2.2) } :=
  ⟨by
    intro p hp
    refine eq_next_of_nextOf ?_
    revert p; decide +kernel, eq_next_of_nextOf (by decide +kernel), by decide +kernel⟩
theorem witness_SumEqualsChainOfAdds :
    bank1.cfg.ovfUnspec = .wrap ∧ (2#3 : SReg) ≠ 0#3 := by decide
theorem witness_QuotientOfEqualsIsOne :
    bank1.readS 5#3 ≠ Cplx.zero ∧ (2#3 : SReg) ≠ 0#3 := by decide
theorem witness_JumpToItselfHangs :
    let s := (loaded 0x03000000200000000000000000000000).writeS 1#3 ⟨one64, 0#64⟩
    s.fault = none ∧ 0 ≤ s.pc ∧ s.pc < s.progLen ∧ decode s.cfg s.fetchWord = .ok (.jrel 0#33)
      ∧ s.readS 1#3 ≠ Cplx.zero := by decide +kernel

end Sys2Proof.Tests
end

/-! The invariant of the machine and the frame of `exec` (10_state R21 to R35, 20_memory R40, R58).

`ExecEffect` lists what one instruction can do, once; the statements about `pc`, the storages and the
invariant are read off that list. -/

/-! ### Decoding answers instructions of the build -/

namespace Sys2Proof

/-- Every instruction that the decoding `r` answers is one of the build `c`. -/
def AnswersWellFormed (c : Config) (r : Except DecodeError Instr) : Prop :=
  ∀ i, r = .ok i → wellFormed c i = true

@[simp] theorem answersWellFormed_error (c : Config) (e : DecodeError) :
    AnswersWellFormed c (.error e) :=
  fun _ h => nomatch h

@[simp] theorem answersWellFormed_ok (c : Config) (i : Instr) :
    AnswersWellFormed c (.ok i) ↔ wellFormed c i = true :=
  ⟨fun h => h i rfl, fun h _ e => Except.ok.inj e ▸ h⟩

@[simp] theorem answersWellFormed_needs (c : Config) (ok : Bool) (i : Instr) :
    AnswersWellFormed c (needs c ok i)
      ↔ (ok = true ∨ c.mbzIgnored = true → wellFormed c i = true) := by
  refine ⟨fun h hok => h i (if_pos (by simpa using hok)), fun h j hj => ?_⟩
  obtain ⟨rfl, hok⟩ := needs_ok hj
  exact h hok

/-- Under the guard of the profile the answer may rely on the profile (30 R81). -/
@[simp] theorem answersWellFormed_onlyD1Ext (c : Config) (r : Except DecodeError Instr) :
    AnswersWellFormed c (onlyD1Ext c r) ↔ (c.d1ext = true → AnswersWellFormed c r) := by
  refine ⟨fun h hd => by simpa [onlyD1Ext, hd] using h, fun h j hj => ?_⟩
  obtain ⟨hd, hj⟩ := onlyD1Ext_ok hj
  exact h hd j hj

theorem answersWellFormed_laneChecked {c : Config} {w : InstrWord} (hd : c.d1ext = true) :
    AnswersWellFormed c (laneChecked c w) := by
  unfold laneChecked
  split
  · simp
  · split
    · next hlane => simp [wellFormed, hd, hlane]
    · simp

theorem answersWellFormed_bankChecked {c : Config} {w : InstrWord} {ok : Bool} {len : BitVec 16}
    {i : Instr} (hi : bankExists (mbidOf w) = true → len.toNat ≤ c.vlen → wellFormed c i = true) :
    AnswersWellFormed c (bankChecked c w ok len i) := by
  intro j hj
  obtain ⟨rfl, -, hbank, hlen⟩ := bankChecked_ok hj
  exact hi hbank hlen

/-- The length operand of a word is one its build allows, once it fits the vector (48 R222, R223). -/
theorem lengthAllowed_lengthOperand {c : Config} {w : InstrWord}
    (h : (lengthOperand c w).toNat ≤ c.vlen) : lengthAllowed c (lengthOperand c w) = true := by
  unfold lengthAllowed
  cases hd : c.d1ext <;> simp_all [lengthOperand]

theorem answersWellFormed_decodeR (c : Config) (w : InstrWord) :
    AnswersWellFormed c (decodeR c w) := by
  unfold decodeR
  split <;> simp +contextual [answersWellFormed_laneChecked, wellFormed]

theorem answersWellFormed_decodeI (c : Config) (w : InstrWord) :
    AnswersWellFormed c (decodeI c w) := by
  unfold decodeI
  split <;> simp +contextual [wellFormed]

theorem answersWellFormed_decodeJ (c : Config) (w : InstrWord) :
    AnswersWellFormed c (decodeJ c w) := by
  unfold decodeJ
  split <;> simp [wellFormed]

theorem answersWellFormed_decodeS (c : Config) (w : InstrWord) :
    AnswersWellFormed c (decodeS c w) := by
  unfold decodeS
  split <;> simp +contextual [answersWellFormed_bankChecked, lengthAllowed_lengthOperand, wellFormed]

/-- What decoding answers is an instruction of the build (30 R74, R81; 47 R182; 48 R209, R223). -/
theorem wellFormed_of_decode {c : Config} {w : InstrWord} {i : Instr} (h : decode c w = .ok i) :
    wellFormed c i = true := by
  have answers : AnswersWellFormed c (decode c w) := by
    unfold decode
    split
    · exact answersWellFormed_decodeR c w
    · exact answersWellFormed_decodeI c w
    · exact answersWellFormed_decodeJ c w
    · exact answersWellFormed_decodeS c w
    · exact answersWellFormed_error c _
  exact answers i h

end Sys2Proof

/-! ### What one instruction can do -/

namespace Sys2Proof.Machine

/-- Every effect that an instruction has on a state: a scalar or a vector result, with or without a draw
of free values; the two ends of a jump; a store inside a bank; or an exception. Each form that not every
instruction has says which instructions have it, and each exception what caused it. -/
inductive ExecEffect (i : Instr) (s : State) : State → Prop where
  | scalar (rd : SReg) (v : Cplx) : ExecEffect i s (s.finishS rd v)
  | scalarDrawn (rd : SReg) (v : Cplx) : ExecEffect i s (s.finishS rd v).drawn
  | vector (rd : VReg) (f : Nat → Cplx) : ExecEffect i s (s.finishV rd f)
  | vectorDrawn (rd : VReg) (f : Nat → Cplx) : ExecEffect i s (s.finishV rd f).drawn
  | jump (offs33 : BitVec 33) (hi : i = .jrel offs33) : ExecEffect i s (s.jump (branchOffset offs33))
  | notTaken (offs33 : BitVec 33) (hi : i = .jrel offs33) : ExecEffect i s s.advance
  | storeLanes (b : Fin 4) (rc : Access) (idx : Nat) (f : Nat → Cplx) (n : Nat)
      (hi : storesToBank i = true) (hidx : idx < s.cfg.side) (hn : n ≤ s.cfg.vlen) :
      ExecEffect i s (s.storeLanes b rc idx f n).advance
  | storeElem (b : Fin 4) (r c : Nat) (e : Cplx) (hi : storesToBank i = true) (hr : r < s.cfg.side)
      (hc : c < s.cfg.side) : ExecEffect i s (s.bankWrite b r c e).advance
  | trap (mbid : BitVec 4) (r c : BitVec 16) (hi : mayRaise i = true) (hmbid : mbid.toNat < 4)
      (hout : s.cfg.side ≤ r.toNat ∨ s.cfg.side ≤ c.toNat) :
      ExecEffect i s (s.raise (.bankBoundsTrap mbid r c))
  | illegal (hi : mayRaise i = true) (hwf : wellFormed s.cfg i = false) :
      ExecEffect i s (s.raiseIllegal i)

theorem bankOf_eq_none {mbid : BitVec 4} (h : bankOf mbid = none) : bankExists mbid = false := by
  unfold bankOf at h
  split at h
  · cases h
  · simpa [bankExists] using ‹¬ mbid.toNat < 4›

theorem lt_four_of_bankOf {mbid : BitVec 4} {b : Fin 4} (h : bankOf mbid = some b) :
    mbid.toNat < 4 := by
  unfold bankOf at h
  split at h
  · assumption
  · cases h

theorem lengthAllowed_eq_false {c : Config} {len16 : BitVec 16} (h : c.vlen < len16.toNat) :
    lengthAllowed c len16 = false := by
  simp [lengthAllowed, h]

theorem transferLength_le {c : Config} {len16 : BitVec 16} (h : ¬ c.vlen < len16.toNat) :
    transferLength c len16 ≤ c.vlen := by
  unfold transferLength
  split <;> omega

/-- A vector access whose index lies outside the bank traps with that index (60 R231). -/
theorem ExecEffect.vectorTrap {i : Instr} {s : State} {mbid : BitVec 4} {idx16 : BitVec 16}
    (rc : Access) (hi : mayRaise i = true) (hmbid : mbid.toNat < 4)
    (hout : s.cfg.side ≤ idx16.toNat) : ExecEffect i s (s.raise (vectorTrap mbid rc idx16)) := by
  cases rc
  · exact .trap mbid idx16 0#16 hi hmbid (.inl hout)
  · exact .trap mbid 0#16 idx16 hi hmbid (.inr hout)

theorem execVld_effect (rd : VReg) (mbid : BitVec 4) (rc : Access) (idx16 len16 : BitVec 16)
    (s : State) : ∃ t, execVld rd mbid rc idx16 len16 s = .next t
      ∧ ExecEffect (.vld rd mbid rc idx16 len16) s t := by
  unfold execVld
  split
  · next hb => exact ⟨_, rfl, .illegal rfl (by simp [wellFormed, bankOf_eq_none hb])⟩
  · next b hb =>
    split
    · next hlen => exact ⟨_, rfl, .illegal rfl (by simp [wellFormed, lengthAllowed_eq_false hlen])⟩
    · split
      · next hout => exact ⟨_, rfl, .vectorTrap rc rfl (lt_four_of_bankOf hb) hout⟩
      · split
        · exact ⟨_, rfl, .vectorDrawn rd _⟩
        · exact ⟨_, rfl, .vector rd _⟩

theorem execVst_effect (rd : VReg) (mbid : BitVec 4) (rc : Access) (idx16 len16 : BitVec 16)
    (s : State) : ∃ t, execVst rd mbid rc idx16 len16 s = .next t
      ∧ ExecEffect (.vst rd mbid rc idx16 len16) s t := by
  unfold execVst
  split
  · next hb => exact ⟨_, rfl, .illegal rfl (by simp [wellFormed, bankOf_eq_none hb])⟩
  · next b hb =>
    split
    · next hlen => exact ⟨_, rfl, .illegal rfl (by simp [wellFormed, lengthAllowed_eq_false hlen])⟩
    · next hlen =>
      split
      · next hout => exact ⟨_, rfl, .vectorTrap rc rfl (lt_four_of_bankOf hb) hout⟩
      · next hin =>
        exact ⟨_, rfl, .storeLanes b rc _ _ _ rfl (Nat.lt_of_not_le hin) (transferLength_le hlen)⟩

theorem execSldXy_effect (rd : SReg) (mbid : BitVec 4) (x16 y16 : BitVec 16) (s : State) :
    ∃ t, execSldXy rd mbid x16 y16 s = .next t ∧ ExecEffect (.sldXy rd mbid x16 y16) s t := by
  unfold execSldXy
  split
  · next hb => exact ⟨_, rfl, .illegal rfl (by simp [wellFormed, bankOf_eq_none hb])⟩
  · next b hb =>
    split
    · next hout => exact ⟨_, rfl, .trap mbid y16 x16 rfl (lt_four_of_bankOf hb) hout⟩
    · exact ⟨_, rfl, .scalar rd _⟩

theorem execSstXy_effect (rd : SReg) (mbid : BitVec 4) (x16 y16 : BitVec 16) (s : State) :
    ∃ t, execSstXy rd mbid x16 y16 s = .next t ∧ ExecEffect (.sstXy rd mbid x16 y16) s t := by
  unfold execSstXy
  split
  · next hb => exact ⟨_, rfl, .illegal rfl (by simp [wellFormed, bankOf_eq_none hb])⟩
  · next b hb =>
    split
    · next hout => exact ⟨_, rfl, .trap mbid y16 x16 rfl (lt_four_of_bankOf hb) hout⟩
    · next hin =>
      obtain ⟨hy, hx⟩ := not_or.mp hin
      exact ⟨_, rfl, .storeElem b _ _ _ rfl (Nat.lt_of_not_le hy) (Nat.lt_of_not_le hx)⟩

theorem execVsload_effect (rd : VReg) (rs2 : SReg) (lane : BitVec 16) (s : State) :
    ∃ t, execVsload rd rs2 lane s = .next t ∧ ExecEffect (.vsload rd rs2 lane) s t := by
  unfold execVsload
  split
  · next hlane => exact ⟨_, rfl, .illegal rfl (by simp [wellFormed, hlane])⟩
  · exact ⟨_, rfl, .vector rd _⟩

theorem execJrel_effect (offs33 : BitVec 33) (s : State) :
    ∃ t, execJrel offs33 s = .next t ∧ ExecEffect (.jrel offs33) s t := by
  unfold execJrel
  split
  · exact ⟨_, rfl, .jump offs33 rfl⟩
  · exact ⟨_, rfl, .notTaken offs33 rfl⟩

/-- Every instruction has a next state, with one of the effects listed in `ExecEffect`. -/
theorem exec_effect (i : Instr) (s : State) : ∃ t, exec i s = .next t ∧ ExecEffect i s t := by
  cases i with
  | jrel offs33 => exact execJrel_effect offs33 s
  | vld rd mbid rc idx16 len16 => exact execVld_effect rd mbid rc idx16 len16 s
  | vst rd mbid rc idx16 len16 => exact execVst_effect rd mbid rc idx16 len16 s
  | sldXy rd mbid x16 y16 => exact execSldXy_effect rd mbid x16 y16 s
  | sstXy rd mbid x16 y16 => exact execSstXy_effect rd mbid x16 y16 s
  | vsload rd rs2 lane => exact execVsload_effect rd rs2 lane s
  | cneg rd | conj rd | cabs2 rd | creal rd | cimag rd | cadd rd | csub rd | cmul rd | iamax rd
  | cloadi rd | caddI rd | cmulI rd | csubI rd | cmaxabs rd | cminabs rd | cmpltRe rd | cmpgtRe rd
  | cmpleRe rd | cmaxabsI rd | cminabsI rd => exact ⟨_, rfl, .scalar rd _⟩
  | csqrt rd | cabs rd | crecip rd | cdiv rd | dotu rd | sum rd | cdivI rd | dotc rd | asum rd
  | cscaleI rd => exact ⟨_, rfl, .scalarDrawn rd _⟩
  | vadd rd | vsub rd | vconj rd | vsadd rd | vssub rd | vsmul rd => exact ⟨_, rfl, .vector rd _⟩
  | vmul rd | vdiv rd | vsdiv rd | vmac rd => exact ⟨_, rfl, .vectorDrawn rd _⟩

theorem execEffect_of_exec {i : Instr} {s t : State} (h : exec i s = .next t) : ExecEffect i s t := by
  obtain ⟨t', ht', effect⟩ := exec_effect i s
  rw [h] at ht'
  cases ht'
  exact effect

/-- An instruction other than `jrel` that records no fault moves `pc` on by one (10_state R29). -/
theorem ExecEffect.pc_eq {i : Instr} {s t : State} (h : ExecEffect i s t)
    (hi : ∀ offs33, i ≠ .jrel offs33) (ht : t.fault = none) : t.pc = s.pc + 1 := by
  cases h with
  | scalar | scalarDrawn | vector | vectorDrawn | storeLanes | storeElem => simp
  | jump offs33 e | notTaken offs33 e => exact absurd e (hi offs33)
  | trap | illegal => simp at ht

/-- An instruction that is no store leaves every byte of every storage (10_state R32). -/
theorem ExecEffect.sameStorage {i : Instr} {s t : State} (h : ExecEffect i s t)
    (hi : storesToBank i = false) : SameStorage s t := by
  cases h with
  | storeLanes _ _ _ _ _ e | storeElem _ _ _ _ e => simp [e] at hi
  | scalar | scalarDrawn | vector | vectorDrawn | jump | notTaken | trap | illegal =>
    exact fun sp a => State.byte_congr _ _ (by simp) (by simp) sp a

/-! ### Each update keeps the invariant -/

theorem State.fetchWord_congr {s t : State} (hpc : t.pc = s.pc) (himem : t.imem = s.imem) :
    t.fetchWord = s.fetchWord := by
  unfold State.fetchWord
  rw [hpc]
  exact State.read128_congr _ _ _ _ fun j _ => by simp [State.byte, State.mem, himem]

/-- The truth of the fault record does not depend on the registers or the banks. -/
theorem State.FaultHolds.congr {s t : State} (h : s.FaultHolds) (hcfg : t.cfg = s.cfg)
    (hpc : t.pc = s.pc) (himem : t.imem = s.imem) (hlen : t.progLen = s.progLen)
    (hfault : t.fault = s.fault) : t.FaultHolds := by
  unfold State.FaultHolds at *
  rwa [hfault, hcfg, State.fetchWord_congr hpc himem, hpc, hlen]

theorem State.faultHolds_of_none {s : State} (h : s.fault = none) : s.FaultHolds := by
  simp [State.FaultHolds, h]

theorem State.sregs_zero_writeS (s : State) (r : SReg) (v : Cplx) :
    (s.writeS r v).sregs[0] = s.sregs[0] := by
  unfold State.writeS
  split
  · rfl
  · next hr =>
    have : r.toNat ≠ 0 := fun e => hr (BitVec.eq_of_toNat_eq e)
    simp [this]

theorem State.vregs_zero_writeV (s : State) (r : VReg) (f : Nat → Cplx) :
    (s.writeV r f).vregs[0] = s.vregs[0] := by
  unfold State.writeV
  split
  · rfl
  · next hr =>
    have : r.toNat ≠ 0 := fun e => hr (BitVec.eq_of_toNat_eq e)
    simp [this]

theorem State.length_vregs_writeV (s : State) (r : VReg) (f : Nat → Cplx) (q : Fin 8)
    (h : s.vregs[q].length = s.cfg.vlen) : (s.writeV r f).vregs[q].length = s.cfg.vlen := by
  unfold State.writeV
  split
  · exact h
  · by_cases e : r.toNat = q
    · simp [e]
    · simpa [Vector.getElem_set, e] using h

theorem State.Inv.writeS {s : State} (h : s.Inv) (r : SReg) (v : Cplx) : (s.writeS r v).Inv where
  build := by simpa using h.build
  s0 := by rw [State.sregs_zero_writeS]; exact h.s0
  v0 := by simpa using h.v0
  lanes := by simpa using h.lanes
  banks := by simpa using h.banks
  imem := by simpa using h.imem
  program := by simpa using h.program
  pcNear := by simpa using h.pcNear
  fault := h.fault.congr (by simp) (by simp) (by simp) (by simp) (by simp)

theorem State.Inv.writeV {s : State} (h : s.Inv) (r : VReg) (f : Nat → Cplx) :
    (s.writeV r f).Inv where
  build := by simpa using h.build
  s0 := by simpa using h.s0
  v0 := by rw [State.vregs_zero_writeV, State.writeV_cfg]; exact h.v0
  lanes q := by rw [State.writeV_cfg]; exact s.length_vregs_writeV r f q (h.lanes q)
  banks := by simpa using h.banks
  imem := by simpa using h.imem
  program := by simpa using h.program
  pcNear := by simpa using h.pcNear
  fault := h.fault.congr (by simp) (by simp) (by simp) (by simp) (by simp)

theorem State.Inv.bankWrite {s : State} (h : s.Inv) (b : Fin 4) (r c : Nat) (e : Cplx)
    (hr : r < s.cfg.side) (hc : c < s.cfg.side) : (s.bankWrite b r c e).Inv where
  build := by simpa using h.build
  s0 := by simpa using h.s0
  v0 := by simpa using h.v0
  lanes := by simpa using h.lanes
  banks b' := by
    rw [State.bankWrite_cfg]
    exact State.mem_bankWrite s b b' r c e hr hc (h.banks b')
  imem := by simpa using h.imem
  program := by simpa using h.program
  pcNear := by simpa using h.pcNear
  fault := h.fault.congr (by simp) (by simp) (by simp) (by simp) (by simp)

theorem State.Inv.storeLanes {s : State} (h : s.Inv) (b : Fin 4) (rc : Access) (idx : Nat)
    (f : Nat → Cplx) (n : Nat) (hidx : idx < s.cfg.side) (hn : n ≤ s.cfg.vlen) :
    (s.storeLanes b rc idx f n).Inv := by
  induction n with
  | zero => exact h
  | succ n ih =>
    obtain ⟨hr, hc⟩ := laneCoord_inside s.cfg rc idx n hidx hn
    exact (ih (by omega)).bankWrite b _ _ _ (by simpa using hr) (by simpa using hc)

theorem State.Inv.drawn {s : State} (h : s.Inv) : s.drawn.Inv :=
  { h with fault := h.fault.congr rfl rfl rfl rfl rfl }

/-- Moving `pc` keeps the invariant while no fault is recorded and `pc` stays within a jump of the
program. -/
theorem State.Inv.jump {s : State} (h : s.Inv) (hf : s.fault = none) (off : Int)
    (hnear : -2 ^ 32 ≤ s.pc + off ∧ s.pc + off < s.progLen + 2 ^ 32) : (s.jump off).Inv :=
  { h with pcNear := hnear, fault := State.faultHolds_of_none hf }

theorem State.Inv.advance {s : State} (h : s.Inv) (hf : s.fault = none) (hpc : s.pc < s.progLen) :
    s.advance.Inv :=
  h.jump hf 1 (by have := h.pcNear; omega)

theorem State.Inv.raise {s : State} (h : s.Inv) (e : Exception) (he : (s.raise e).FaultHolds) :
    (s.raise e).Inv :=
  { h with fault := he }

theorem State.Inv.finishS {s : State} (h : s.Inv) (hf : s.fault = none) (hpc : s.pc < s.progLen)
    (rd : SReg) (v : Cplx) : (s.finishS rd v).Inv :=
  (h.writeS rd v).advance (by simpa using hf) (by simpa using hpc)

theorem State.Inv.finishV {s : State} (h : s.Inv) (hf : s.fault = none) (hpc : s.pc < s.progLen)
    (rd : VReg) (f : Nat → Cplx) : (s.finishV rd f).Inv :=
  (h.writeV rd f).advance (by simpa using hf) (by simpa using hpc)

/-- The offset of `jrel` is a signed number of 33 bits (30 R72). -/
theorem branchOffset_bounds (offs33 : BitVec 33) :
    -2 ^ 32 ≤ branchOffset offs33 ∧ branchOffset offs33 < 2 ^ 32 :=
  ⟨BitVec.le_toInt offs33, BitVec.toInt_lt⟩

/-! ### Every step keeps the invariant -/

/-- An instruction of the build, run inside the program with no fault recorded, keeps the invariant. -/
theorem ExecEffect.inv {i : Instr} {s t : State} (h : ExecEffect i s t) (hs : s.Inv)
    (hf : s.fault = none) (h0 : 0 ≤ s.pc) (hpc : s.pc < s.progLen)
    (hwf : wellFormed s.cfg i = true) : t.Inv := by
  cases h with
  | scalar rd v => exact hs.finishS hf hpc rd v
  | scalarDrawn rd v => exact (hs.finishS hf hpc rd v).drawn
  | vector rd f => exact hs.finishV hf hpc rd f
  | vectorDrawn rd f => exact (hs.finishV hf hpc rd f).drawn
  | jump offs33 =>
    have := branchOffset_bounds offs33
    exact hs.jump hf _ (by omega)
  | notTaken => exact hs.advance hf hpc
  | storeLanes b rc idx f n _ hidx hn =>
    exact (hs.storeLanes b rc idx f n hidx hn).advance (by simpa using hf) (by simpa using hpc)
  | storeElem b r c e _ hr hc =>
    exact (hs.bankWrite b r c e hr hc).advance (by simpa using hf) (by simpa using hpc)
  | trap mbid r c _ hmbid hout => exact hs.raise _ ⟨hmbid, hout, h0, hpc⟩
  | illegal _ hnot => simp [hwf] at hnot

/-- What a step that answers a next state did (70 R264): it recorded a fetch fault outside the program,
recorded an illegal instruction inside it, or ran the instruction there. -/
theorem step_cases {s t : State} (h : step s = .next t) :
    s.fault = none
      ∧ ((s.pc < 0 ∨ (s.progLen : Int) < s.pc) ∧ t = s.raise (.fetchFault s.pc)
        ∨ (0 ≤ s.pc ∧ s.pc < s.progLen)
          ∧ ((∃ e, decode s.cfg s.fetchWord = .error e)
              ∧ t = s.raise (.illegalInstruction s.fetchWord)
            ∨ ∃ i, decode s.cfg s.fetchWord = .ok i ∧ exec i s = .next t)) := by
  unfold step at h
  split at h
  · cases h
  · next hf =>
    refine ⟨hf, ?_⟩
    split at h
    · cases h
    · next hend =>
      split at h
      · next hout => cases h; exact .inl ⟨hout, rfl⟩
      · next hin =>
        refine .inr ⟨by omega, ?_⟩
        split at h
        · next e hd => cases h; exact .inl ⟨⟨e, hd⟩, rfl⟩
        · next i hd => exact .inr ⟨i, hd, h⟩

theorem State.Inv.step {s t : State} (hs : s.Inv) (h : step s = .next t) : t.Inv := by
  obtain ⟨hf, ⟨hout, rfl⟩ | ⟨⟨h0, hpc⟩, ⟨hd, rfl⟩ | ⟨i, hd, hi⟩⟩⟩ := step_cases h
  · exact hs.raise _ ⟨rfl, hout⟩
  · exact hs.raise _ ⟨rfl, hd, h0, hpc⟩
  · exact (execEffect_of_exec hi).inv hs hf h0 hpc (wellFormed_of_decode hd)

/-- Right after reset every admissible build meets the invariant (10_state R35). -/
theorem State.inv_resetWith (c : Config) (hc : c.Wf) : (State.resetWith c).Inv where
  build := hc
  s0 := by simp [State.resetWith]
  v0 := by simp [State.resetWith]
  lanes := by simp [State.resetWith]
  banks := by simp [State.resetWith, Memory.wf, Memory.risesFrom, Memory.within]
  imem := ⟨rfl, rfl⟩
  program := Nat.zero_le _
  pcNear := by simp [State.resetWith]
  fault := trivial

/-! ### The statements -/

/-- Settles O11: the decided build is admissible. -/
theorem resetMeetsInvariant : Obligations.ResetMeetsInvariant :=
  State.inv_resetWith Config.decided (by decide)

/-- Settles O12, by the effects of the instruction that the step runs, which decoding makes one of the
build. -/
theorem stepKeepsInvariant : Obligations.StepKeepsInvariant :=
  fun _ _ hs h => hs.step h

/-- Settles O16, by the effects an instruction can have. -/
theorem pcAdvancesByOne : Obligations.PcAdvancesByOne :=
  fun _ _ _ hi _ h ht => (execEffect_of_exec h).pc_eq hi ht

/-- Settles O17, by the effects an instruction can have. -/
theorem onlyStoresWriteBanks : Obligations.OnlyStoresWriteBanks := by
  intro i s hi
  obtain ⟨t, ht, effect⟩ := exec_effect i s
  exact ⟨t, ht, effect.sameStorage hi⟩

end Sys2Proof.Machine

/-! Instruction memory and the byte images of words and bank elements (20_memory R42 to R47, R58). -/

namespace Sys2Proof.Machine

/-! ### What no step changes -/

/-- The bytes of instruction memory depend on nothing else of the state. -/
theorem State.byte_imem_congr {s t : State} (h : t.imem = s.imem) (a : Nat) :
    t.byte .imem a = s.byte .imem a := by
  simp [State.byte, State.mem, h]

/-- Neither taking an exception nor running an instruction changes the build, the program's length or
instruction memory (00_scope R6, 20_memory R58). -/
theorem step_keeps {s t : State} (h : step s = .next t) :
    t.cfg = s.cfg ∧ t.progLen = s.progLen ∧ t.imem = s.imem := by
  obtain ⟨-, ⟨-, rfl⟩ | ⟨-, ⟨-, rfl⟩ | ⟨i, -, hi⟩⟩⟩ := step_cases h
  · exact ⟨rfl, rfl, rfl⟩
  · exact ⟨rfl, rfl, rfl⟩
  · exact exec_keeps i s t hi

/-! ### The word placed for the next fetch -/

/-- Inside the program and with no fault recorded, a step runs the instruction at `pc` (70 R264). -/
theorem step_eq_exec {s : State} {i : Instr} (hf : s.fault = none) (h0 : 0 ≤ s.pc)
    (hpc : s.pc < s.progLen) (hd : decode s.cfg s.fetchWord = .ok i) : step s = exec i s := by
  have hend : ¬ s.pc = s.progLen := by omega
  have hin : ¬ (s.pc < 0 ∨ (s.progLen : Int) < s.pc) := by omega
  simp only [step, hf, hend, hin, hd, if_false]

@[simp] theorem State.withFetchWord_pc (s : State) (nbits w : Nat) :
    (s.withFetchWord nbits w).pc = s.pc.toNat := by
  simp [State.withFetchWord, State.readyToFetch]

@[simp] theorem State.withFetchWord_fault (s : State) (nbits w : Nat) :
    (s.withFetchWord nbits w).fault = none := by
  simp [State.withFetchWord, State.readyToFetch]

/-- The program reaches past the placed word, so the next step fetches it. -/
theorem State.pc_lt_withFetchWord_progLen (s : State) (nbits w : Nat) :
    s.pc.toNat < (s.withFetchWord nbits w).progLen := by
  rw [State.withFetchWord, State.loadWord_progLen]
  omega

theorem State.byte_withFetchWord (s : State) (w : InstrWord) (j : Nat) (hj : j < 16) :
    (s.withFetchWord 128 w.toNat).byte .imem (16 * s.pc.toNat + j) = wordByte w j := by
  rw [State.withFetchWord_word, State.byte_loadWord, if_pos ⟨rfl, by omega, by omega⟩,
    Nat.add_sub_cancel_left]

theorem State.fetchWord_withFetchWord (s : State) (w : InstrWord) :
    (s.withFetchWord 128 w.toNat).fetchWord = w := by
  rw [State.fetchWord, State.withFetchWord_pc, Int.toNat_natCast, State.withFetchWord_word,
    State.read128_loadWord]

/-! ### The image of a complex value -/

/-- A byte of a storage is a byte of the 128-bit value read around it (20_memory R44 to R46). -/
theorem State.byte_eq_wordByte_read128 (s : State) (sp : Space) (a j : Nat) (hj : j < 16) :
    s.byte sp (a + j) = wordByte (s.read128 sp a) j :=
  (wordByte_wordOfBytes (fun j => s.byte sp (a + j)) j hj).symm

/-- The lower 8 bytes of the image are the real half's (20_memory R46). -/
theorem wordByte_cplxBits_re (z : Cplx) (j : Nat) (hj : j < 8) :
    wordByte (cplxBits z) j = z.re.extractLsb' (8 * j) 8 :=
  BitVec.extractLsb'_append_eq_of_add_le (by omega)

/-- The upper 8 bytes of the image are the imaginary half's (20_memory R46). -/
theorem wordByte_cplxBits_im (z : Cplx) (j : Nat) :
    wordByte (cplxBits z) (8 + j) = z.im.extractLsb' (8 * j) 8 := by
  have hoffset : 8 * (8 + j) - 64 = 8 * j := by omega
  rw [wordByte, cplxBits, BitVec.extractLsb'_append_eq_of_le (by omega), hoffset]

@[simp] theorem cplxBits_cplxOfBits (w : BitVec 128) : cplxBits (cplxOfBits w) = w := by
  unfold cplxBits cplxOfBits
  rw [BitVec.extractLsb'_append_extractLsb'_eq_extractLsb' (by rfl)]
  simp

/-- Where the value read is `z`, the 16 bytes are those of its halves (20_memory R46). -/
theorem State.bytes_of_read128_eq_cplxBits {s : State} {sp : Space} {a : Nat} {z : Cplx}
    (h : s.read128 sp a = cplxBits z) :
    (∀ j < 8, s.byte sp (a + j) = z.re.extractLsb' (8 * j) 8)
      ∧ (∀ j < 8, s.byte sp (a + 8 + j) = z.im.extractLsb' (8 * j) 8) := by
  refine ⟨fun j hj => ?_, fun j hj => ?_⟩
  · rw [State.byte_eq_wordByte_read128 _ _ _ _ (by omega), h, wordByte_cplxBits_re z j hj]
  · rw [Nat.add_assoc, State.byte_eq_wordByte_read128 _ _ _ _ (by omega), h, wordByte_cplxBits_im]

/-- A host's write of an element leaves the element's 128 bits in its place. -/
theorem State.read128_loadElem (s : State) (b : Fin 4) (r c : Nat) (e : Cplx) :
    (s.loadElem b r c e).read128 (.bank b) (elemAddr s.cfg r c) = cplxBits e := by
  unfold State.loadElem State.bankWrite
  exact State.read128_write128_same ..

/-- The element read has the 128 bits that stand in its place. -/
theorem State.cplxBits_bankRead (s : State) (b : Fin 4) (r c : Nat) :
    cplxBits (s.bankRead b r c) = s.read128 (.bank b) (elemAddr s.cfg r c) :=
  cplxBits_cplxOfBits _

/-- Inside the bank `sld.xy` completes with the element at row `y`, column `x` (47 R186). -/
theorem exec_sldXy_inside {s : State} {mbid : BitVec 4} {x y : BitVec 16} {b : Fin 4} (rd : SReg)
    (hb : mbid.toNat = b) (hx : x.toNat < s.cfg.side) (hy : y.toNat < s.cfg.side) :
    exec (.sldXy rd mbid x y) s = .next (s.finishS rd (s.bankRead b y.toNat x.toNat)) := by
  have hin : ¬ (s.cfg.side ≤ y.toNat ∨ s.cfg.side ≤ x.toNat) := by omega
  simp only [exec, execSldXy, bankOf_eq_some mbid b hb, hin, if_false]

/-! ### The statements -/

/-- Settles O13: a step keeps the whole of instruction memory, so every byte and every word of it. -/
theorem stepKeepsBuildAndProgram : Obligations.StepKeepsBuildAndProgram := by
  intro s t h
  obtain ⟨hcfg, hlen, himem⟩ := step_keeps h
  exact ⟨hcfg, hlen, State.byte_imem_congr himem,
    fun _ => State.read128_congr _ _ _ _ fun _ _ => State.byte_imem_congr himem _⟩

/-- Settles O18: the placed word stands at `pc`, inside the program, with no fault recorded. -/
theorem loadedWordIsFetchedAndRun : Obligations.LoadedWordIsFetchedAndRun := by
  intro s w
  refine ⟨s.fetchWord_withFetchWord w, s.byte_withFetchWord w, fun i hi => ?_⟩
  have hlen := s.pc_lt_withFetchWord_progLen 128 w.toNat
  exact step_eq_exec (by simp) (by simp) (by rw [State.withFetchWord_pc]; omega)
    (by rwa [State.fetchWord_withFetchWord])

/-- Settles O56: after the host's write, and before a load, the 128 bits in the element's place are those
of its two halves. -/
theorem elementImageIsLittleEndian : Obligations.ElementImageIsLittleEndian := by
  intro s rd mbid x y b e at' image hb hx hy
  have image_of_read128 {u : State} {z : Cplx} (h : u.read128 (.bank b) at' = cplxBits z) :
      image u z := by
    obtain ⟨hre, him⟩ := State.bytes_of_read128_eq_cplxBits h
    exact ⟨hre, him, h⟩
  refine ⟨image_of_read128 (s.read128_loadElem b y.toNat x.toNat e), _,
    exec_sldXy_inside rd hb hx hy, ScalarResult.of_finishS s rd _ _ fun _ => ?_⟩
  exact image_of_read128 (s.cplxBits_bankRead b y.toNat x.toNat).symm

end Sys2Proof.Machine

/-! The encoding: the round trips between instructions and words, the reserved encodings, and what a
word that decodes to nothing does (30_encoding R60 to R89, 48_secondary_only R200 to R223, 60 R232). -/

namespace Sys2Proof

/-! ### The checks that decoding makes -/

@[simp] theorem needs_true (c : Config) (i : Instr) : needs c true i = .ok i := rfl

theorem onlyD1Ext_of_d1ext {c : Config} (h : c.d1ext = true) (r : Except DecodeError Instr) :
    onlyD1Ext c r = r :=
  if_pos h

theorem bankChecked_true {c : Config} {w : InstrWord} {len : BitVec 16} (i : Instr)
    (hbank : bankExists (mbidOf w) = true) (hlen : len.toNat ≤ c.vlen) :
    bankChecked c w true len i = .ok i := by
  simp [bankChecked, hbank, hlen]

/-- A length the build allows fits the vector (48 R223). -/
theorem toNat_le_vlen_of_lengthAllowed {c : Config} {len16 : BitVec 16}
    (h : lengthAllowed c len16 = true) : len16.toNat ≤ c.vlen := by
  simp_all [lengthAllowed]

/-! ### The opcode selects the format (30 R74) -/

theorem decode_eq_decodeR {w : InstrWord} (h : (opcodeOf w).toNat = 1) (c : Config) :
    decode c w = decodeR c w := by
  simp only [decode, h]

theorem decode_eq_decodeI {w : InstrWord} (h : (opcodeOf w).toNat = 2) (c : Config) :
    decode c w = decodeI c w := by
  simp only [decode, h]

theorem decode_eq_decodeJ {w : InstrWord} (h : (opcodeOf w).toNat = 3) (c : Config) :
    decode c w = decodeJ c w := by
  simp only [decode, h]

theorem decode_eq_decodeS {w : InstrWord} (h : (opcodeOf w).toNat = 4) (c : Config) :
    decode c w = decodeS c w := by
  simp only [decode, h]

/-! ### A packed word has its unused bits zero -/

@[simp] theorem unusedR_packR (sub : BitVec 8) (m : BitVec 2) (rd rs1 rs2 : BitVec 3) :
    unusedR (packR sub m rd rs1 rs2 0#16) = true := by
  simp [unusedR]

@[simp] theorem unusedRs2_packR (sub : BitVec 8) (m : BitVec 2) (rd rs1 : BitVec 3) :
    unusedRs2 (packR sub m rd rs1 0#3 0#16) = true := by
  simp [unusedRs2]

@[simp] theorem unusedVsload_packR (sub : BitVec 8) (m : BitVec 2) (rd rs2 : BitVec 3)
    (lane : BitVec 16) : unusedVsload (packR sub m rd 0#3 rs2 lane) = true := by
  simp [unusedVsload]

@[simp] theorem unusedI_packI (sub : BitVec 8) (rd rs1 : BitVec 3) (re im : Imm45) :
    unusedI (packI sub rd rs1 re im) = true := by
  simp [unusedI]

@[simp] theorem unusedJ_packJ (sub : BitVec 8) (offs33 : BitVec 33) :
    unusedJ (packJ sub offs33) = true := by
  simp [unusedJ]

@[simp] theorem unusedScalar_packS (sub : BitVec 8) (rd : BitVec 3) (mbid : BitVec 4)
    (i16 j16 : BitVec 16) : unusedScalar (packS sub 0#1 rd mbid i16 j16 0#16) = true := by
  simp [unusedScalar]

theorem unusedVector_packS {c : Config} {len16 : BitVec 16} (sub : BitVec 8) (rc : BitVec 1)
    (rd : BitVec 3) (mbid : BitVec 4) (i16 : BitVec 16) (h : lengthAllowed c len16 = true) :
    unusedVector c (packS sub rc rd mbid i16 0#16 len16) = true := by
  simp_all [unusedVector, lengthAllowed]

theorem lengthOperand_packS {c : Config} {len16 : BitVec 16} (sub : BitVec 8) (rc : BitVec 1)
    (rd : BitVec 3) (mbid : BitVec 4) (i16 j16 : BitVec 16) (h : lengthAllowed c len16 = true) :
    lengthOperand c (packS sub rc rd mbid i16 j16 len16) = len16 := by
  cases hd : c.d1ext <;> simp_all [lengthOperand, lengthAllowed]

/-! ### Decoding gives back the instruction that was encoded -/

/-- The word of a well-formed instruction decodes to it (30 R74, R75; 48 R200). -/
theorem decode_encode {c : Config} {i : Instr} (h : wellFormed c i = true) :
    decode c (encode i) = .ok i := by
  cases i with
  | cneg | conj | csqrt | cabs2 | cabs | creal | cimag | crecip | vconj | iamax | sum
  | cadd | csub | cmul | cdiv | vadd | vsub | vmul | vdiv | dotu | vsadd | vssub | vsmul | vsdiv =>
    simp [encode, decode_eq_decodeR, decodeR]
  | cmaxabs | cminabs | cmpltRe | cmpgtRe | cmpleRe | vmac | dotc | asum =>
    simp [encode, decode_eq_decodeR, decodeR, onlyD1Ext_of_d1ext h]
  | vsload rd rs2 lane =>
    obtain ⟨hd, hlane⟩ : c.d1ext = true ∧ lane.toNat < c.vlen := by simpa [wellFormed] using h
    simp [encode, decode_eq_decodeR, decodeR, onlyD1Ext_of_d1ext hd, laneChecked, hlane]
  | cloadi | caddI | cmulI | csubI | cdivI => simp [encode, decode_eq_decodeI, decodeI]
  | cmaxabsI | cminabsI | cscaleI =>
    simp [encode, decode_eq_decodeI, decodeI, onlyD1Ext_of_d1ext h]
  | jrel => simp [encode, decode_eq_decodeJ, decodeJ]
  | vld rd mbid rc idx16 len16 | vst rd mbid rc idx16 len16 =>
    obtain ⟨hbank, hlen⟩ : bankExists mbid = true ∧ lengthAllowed c len16 = true := by
      simpa [wellFormed] using h
    simp [encode, decode_eq_decodeS, decodeS, lengthOperand_packS _ _ _ _ _ _ hlen,
      unusedVector_packS _ _ _ _ _ hlen, bankChecked_true, hbank,
      toNat_le_vlen_of_lengthAllowed hlen]
  | sldXy rd mbid x16 y16 | sstXy rd mbid x16 y16 =>
    have hbank : bankExists mbid = true := h
    simp [encode, decode_eq_decodeS, decodeS, bankChecked_true, hbank]

/-! ### The fields of a word, put back together -/

/-- R-type (30 R62). -/
theorem append_fieldsR (w : InstrWord) :
    opcodeOf w ++ subopOf w ++ flagsHighOf w ++ mappingOf w ++ rdOf w ++ rs1Of w ++ rs2Of w
      ++ imm16Of w ++ reservedROf w = w := by
  unfold opcodeOf subopOf flagsHighOf mappingOf rdOf rs1Of rs2Of imm16Of reservedROf
  iterate 8 rw [BitVec.extractLsb'_append_extractLsb'_eq_extractLsb' (by rfl)]
  exact BitVec.extractLsb'_eq_self

/-- I-type (30 R64, R70). -/
theorem append_fieldsI (w : InstrWord) :
    opcodeOf w ++ subopOf w ++ flagsOf w ++ rdOf w ++ rs1Of w ++ immReOf w ++ immImOf w = w := by
  unfold opcodeOf subopOf flagsOf rdOf rs1Of immReOf immImOf
  iterate 6 rw [BitVec.extractLsb'_append_extractLsb'_eq_extractLsb' (by rfl)]
  exact BitVec.extractLsb'_eq_self

/-- J-type (30 R65). -/
theorem append_fieldsJ (w : InstrWord) :
    opcodeOf w ++ subopOf w ++ flagsOf w ++ rdOf w ++ offs33Of w ++ reservedJOf w = w := by
  unfold opcodeOf subopOf flagsOf rdOf offs33Of reservedJOf
  iterate 5 rw [BitVec.extractLsb'_append_extractLsb'_eq_extractLsb' (by rfl)]
  exact BitVec.extractLsb'_eq_self

/-- S-type, with the `len16` field of `D1EXT` (30 R66, 48 R222). -/
theorem append_fieldsS (w : InstrWord) :
    opcodeOf w ++ subopOf w ++ rcOf w ++ flagsLowOf w ++ rdOf w ++ mbidOf w ++ i16Of w ++ j16Of w
      ++ len16Of w ++ reservedSOf w = w := by
  unfold opcodeOf subopOf rcOf flagsLowOf rdOf mbidOf i16Of j16Of len16Of reservedSOf
  iterate 9 rw [BitVec.extractLsb'_append_extractLsb'_eq_extractLsb' (by rfl)]
  exact BitVec.extractLsb'_eq_self

/-- `flags` of S-type is the bit `rc` above the fifteen bits of `FLAGS16[110:96]` (30 R63, R66). -/
theorem rcOf_flagsLowOf_of_flagsOf_eq_zero {w : InstrWord} (h : flagsOf w = 0#16) :
    rcOf w = 0#1 ∧ flagsLowOf w = 0#15 := by
  have parts : rcOf w ++ flagsLowOf w = 0#16 :=
    (BitVec.extractLsb'_append_extractLsb'_eq_extractLsb' rfl).trans h
  have hrc : (rcOf w ++ flagsLowOf w).extractLsb' 15 1 = rcOf w :=
    (BitVec.extractLsb'_append_eq_of_le (by decide)).trans (by simp)
  have hlow : (rcOf w ++ flagsLowOf w).extractLsb' 0 15 = flagsLowOf w :=
    (BitVec.extractLsb'_append_eq_of_add_le (by decide)).trans (by simp)
  rw [parts] at hrc hlow
  exact ⟨hrc.symm, hlow.symm⟩

/-- The access direction keeps the whole of the `rc` bit (30 R73). -/
theorem rcBit_accessOf (w : InstrWord) : rcBit (accessOf w) = rcOf w := by
  unfold accessOf
  split
  · next h => exact h.symm
  · next h => exact ((BitVec.eq_zero_or_eq_one _).resolve_left h).symm

/-! ### A word with its unused bits zero is the packing of its operand fields (30 R78) -/

/-- A field that a row leaves unused is the constant that the row needs there. -/
theorem packR_eq {w : InstrWord} {sub : BitVec 8} {m : BitVec 2} {rs1 rs2 : BitVec 3}
    {imm16 : BitVec 16} (hop : opcodeOf w = 0x01#8) (hm : (mappingOf w).toNat = m.toNat)
    (hsub : (subopOf w).toNat = sub.toNat) (hhigh : flagsHighOf w = 0#14) (hrs1 : rs1Of w = rs1)
    (hrs2 : rs2Of w = rs2) (himm : imm16Of w = imm16) (hres : reservedROf w = 0#71) :
    packR sub m (rdOf w) rs1 rs2 imm16 = w := by
  have fields := append_fieldsR w
  rwa [hop, BitVec.eq_of_toNat_eq hm, BitVec.eq_of_toNat_eq hsub, hhigh, hrs1, hrs2, himm, hres]
    at fields

theorem packI_eq {w : InstrWord} {sub : BitVec 8} {rs1 : BitVec 3} {im : Imm45}
    (hop : opcodeOf w = 0x02#8) (hsub : (subopOf w).toNat = sub.toNat) (hu : unusedI w = true)
    (hrs1 : rs1Of w = rs1) (him : immImOf w = im) : packI sub (rdOf w) rs1 (immReOf w) im = w := by
  have hflags : flagsOf w = 0#16 := by simpa [unusedI] using hu
  have fields := append_fieldsI w
  rwa [hop, BitVec.eq_of_toNat_eq hsub, hflags, hrs1, him] at fields

theorem packJ_eq {w : InstrWord} {sub : BitVec 8} (hop : opcodeOf w = 0x03#8)
    (hsub : (subopOf w).toNat = sub.toNat) (hu : unusedJ w = true) : packJ sub (offs33Of w) = w := by
  obtain ⟨⟨hflags, hrs1⟩, hres⟩ : (flagsOf w = 0#16 ∧ rdOf w = 1#3) ∧ reservedJOf w = 0#60 := by
    simpa [unusedJ] using hu
  have fields := append_fieldsJ w
  rwa [hop, BitVec.eq_of_toNat_eq hsub, hflags, hrs1, hres] at fields

/-- Without `D1EXT` the length bits belong to the reserved ones (30 R81, 48 R222). -/
theorem packS_eq_of_vector {c : Config} {w : InstrWord} {sub : BitVec 8} (hop : opcodeOf w = 0x04#8)
    (hsub : (subopOf w).toNat = sub.toNat) (hu : unusedVector c w = true) :
    packS sub (rcBit (accessOf w)) (rdOf w) (mbidOf w) (i16Of w) 0#16 (lengthOperand c w) = w := by
  obtain ⟨⟨⟨hlow, hj⟩, hres⟩, hlen⟩ :
      ((flagsLowOf w = 0#15 ∧ j16Of w = 0#16) ∧ reservedSOf w = 0#41)
        ∧ (c.d1ext = true ∨ len16Of w = 0#16) := by
    simpa [unusedVector] using hu
  have hlen : lengthOperand c w = len16Of w := by
    rcases hlen with hd | hzero
    · exact if_pos hd
    · simp [lengthOperand, hzero]
  rw [rcBit_accessOf, hlen]
  have fields := append_fieldsS w
  rwa [hop, BitVec.eq_of_toNat_eq hsub, hlow, hj, hres] at fields

theorem packS_eq_of_scalar {w : InstrWord} {sub : BitVec 8} (hop : opcodeOf w = 0x04#8)
    (hsub : (subopOf w).toNat = sub.toNat) (hu : unusedScalar w = true) :
    packS sub 0#1 (rdOf w) (mbidOf w) (i16Of w) (j16Of w) 0#16 = w := by
  obtain ⟨⟨hflags, hlen⟩, hres⟩ : (flagsOf w = 0#16 ∧ len16Of w = 0#16) ∧ reservedSOf w = 0#41 := by
    simpa [unusedScalar] using hu
  obtain ⟨hrc, hlow⟩ := rcOf_flagsLowOf_of_flagsOf_eq_zero hflags
  have fields := append_fieldsS w
  rwa [hop, BitVec.eq_of_toNat_eq hsub, hrc, hlow, hlen, hres] at fields

/-! ### Decoding drops no bit (30 R78, R80) -/

/-- Every instruction that the decoding `r` answers has the word `w`. -/
def AnswersEncoding (w : InstrWord) (r : Except DecodeError Instr) : Prop :=
  ∀ i, r = .ok i → encode i = w

@[simp] theorem answersEncoding_error (w : InstrWord) (e : DecodeError) :
    AnswersEncoding w (.error e) :=
  fun _ h => nomatch h

@[simp] theorem answersEncoding_ok (w : InstrWord) (i : Instr) :
    AnswersEncoding w (.ok i) ↔ encode i = w :=
  ⟨fun h => h i rfl, fun h _ e => Except.ok.inj e ▸ h⟩

theorem answersEncoding_needs {c : Config} (hc : c.mbzIgnored = false) (w : InstrWord) (ok : Bool)
    (i : Instr) : AnswersEncoding w (needs c ok i) ↔ (ok = true → encode i = w) := by
  refine ⟨fun h hok => h i (if_pos (by simp [hok])), fun h j hj => ?_⟩
  obtain ⟨rfl, hok⟩ := needs_ok hj
  exact h (by simpa [hc] using hok)

@[simp] theorem answersEncoding_onlyD1Ext (c : Config) (w : InstrWord)
    (r : Except DecodeError Instr) :
    AnswersEncoding w (onlyD1Ext c r) ↔ (c.d1ext = true → AnswersEncoding w r) := by
  refine ⟨fun h hd => by rwa [onlyD1Ext, if_pos hd] at h, fun h i hi => ?_⟩
  obtain ⟨hd, hi⟩ := onlyD1Ext_ok hi
  exact h hd i hi

theorem answersEncoding_laneChecked {c : Config} (hc : c.mbzIgnored = false) (w : InstrWord) :
    AnswersEncoding w (laneChecked c w) ↔ (unusedVsload w = true → (imm16Of w).toNat < c.vlen →
      encode (.vsload (rdOf w) (rs2Of w) (imm16Of w)) = w) := by
  by_cases hu : unusedVsload w = true <;> by_cases hlane : (imm16Of w).toNat < c.vlen <;>
    simp [laneChecked, hc, hu, hlane]

theorem answersEncoding_bankChecked {c : Config} (hc : c.mbzIgnored = false) {w : InstrWord}
    {ok : Bool} {len : BitVec 16} {i : Instr} (h : ok = true → encode i = w) :
    AnswersEncoding w (bankChecked c w ok len i) := by
  intro j hj
  obtain ⟨rfl, hok, -, -⟩ := bankChecked_ok hj
  exact h (by simpa [hc] using hok)

theorem answersEncoding_decodeR {c : Config} (hc : c.mbzIgnored = false) {w : InstrWord}
    (hop : opcodeOf w = 0x01#8) : AnswersEncoding w (decodeR c w) := by
  unfold decodeR
  split <;> simp +contextual [answersEncoding_needs hc, answersEncoding_laneChecked hc, encode,
    unusedR, unusedRs2, unusedVsload, packR_eq hop, *]

theorem answersEncoding_decodeI {c : Config} (hc : c.mbzIgnored = false) {w : InstrWord}
    (hop : opcodeOf w = 0x02#8) : AnswersEncoding w (decodeI c w) := by
  unfold decodeI
  split <;> simp +contextual [answersEncoding_needs hc, encode, packI_eq hop, *]

theorem answersEncoding_decodeJ {c : Config} (hc : c.mbzIgnored = false) {w : InstrWord}
    (hop : opcodeOf w = 0x03#8) : AnswersEncoding w (decodeJ c w) := by
  unfold decodeJ
  split <;> simp +contextual [answersEncoding_needs hc, encode, packJ_eq hop, *]

theorem answersEncoding_decodeS {c : Config} (hc : c.mbzIgnored = false) {w : InstrWord}
    (hop : opcodeOf w = 0x04#8) : AnswersEncoding w (decodeS c w) := by
  unfold decodeS
  split <;> simp +contextual [answersEncoding_bankChecked hc, encode,
    packS_eq_of_vector hop, packS_eq_of_scalar hop, *]

/-- With the must-be-zero bits checked, a word is the encoding of what it decodes to (30 R78, R80). -/
theorem encode_of_decode {c : Config} (hc : c.mbzIgnored = false) {w : InstrWord} {i : Instr}
    (h : decode c w = .ok i) : encode i = w := by
  have answers : AnswersEncoding w (decode c w) := by
    unfold decode
    split
    · next hop => exact answersEncoding_decodeR hc (BitVec.eq_of_toNat_eq hop)
    · next hop => exact answersEncoding_decodeI hc (BitVec.eq_of_toNat_eq hop)
    · next hop => exact answersEncoding_decodeJ hc (BitVec.eq_of_toNat_eq hop)
    · next hop => exact answersEncoding_decodeS hc (BitVec.eq_of_toNat_eq hop)
    · exact answersEncoding_error w _
  exact answers i h

/-! ### The reserved encodings (30 R76, R77, R81)

The checks of a defined row answer other errors, so an encoding is reserved exactly where the table of
its format has no row, or one that only `D1EXT` has. -/

theorem needs_ne_reserved (c : Config) (ok : Bool) (i : Instr) {e : DecodeError}
    (he : e = .reservedOpcode ∨ e = .reservedSubop) : needs c ok i ≠ .error e := by
  unfold needs
  split_ifs <;> rintro ⟨⟩
  simp at he

theorem laneChecked_ne_reserved (c : Config) (w : InstrWord) {e : DecodeError}
    (he : e = .reservedOpcode ∨ e = .reservedSubop) : laneChecked c w ≠ .error e := by
  unfold laneChecked
  split_ifs <;> rintro ⟨⟩ <;> simp at he

theorem bankChecked_ne_reserved (c : Config) (w : InstrWord) (ok : Bool) (len : BitVec 16)
    (i : Instr) {e : DecodeError} (he : e = .reservedOpcode ∨ e = .reservedSubop) :
    bankChecked c w ok len i ≠ .error e := by
  unfold bankChecked
  split_ifs <;> rintro ⟨⟩ <;> simp at he

/-- Outside its profile a row is reserved (30 R81). -/
theorem onlyD1Ext_eq_error_iff {c : Config} {r : Except DecodeError Instr} {e : DecodeError} :
    onlyD1Ext c r = .error e ↔ if c.d1ext then r = .error e else e = .reservedSubop := by
  cases hd : c.d1ext <;> simp [onlyD1Ext, hd, eq_comm]

/-- The R-type subops that name no instruction, for each mapping (30 R77, R81, R89; 48 R200). -/
def SubopReservedR (d1ext : Bool) (m sub : Nat) : Prop :=
  match m with
  | 0 => if d1ext then 0x11 ≤ sub else 0x0C ≤ sub
  | 1 => if d1ext then 0x06 ≤ sub else sub = 0x03 ∨ 0x06 ≤ sub
  | 2 => if d1ext then 0x05 ≤ sub else sub = 0x00 ∨ 0x04 ≤ sub
  | _ => if d1ext then sub ≤ 0x17 ∨ 0x1D ≤ sub else sub ≤ 0x17 ∨ 0x1C ≤ sub

theorem decodeR_ne_reservedOpcode (c : Config) (w : InstrWord) :
    decodeR c w ≠ .error .reservedOpcode := by
  unfold decodeR
  split <;> simp [onlyD1Ext_eq_error_iff, needs_ne_reserved, laneChecked_ne_reserved]

/-- The reserved subops of R-type: the last case of the table is what no row matches. -/
theorem decodeR_eq_reservedSubop_iff (c : Config) (w : InstrWord) :
    decodeR c w = .error .reservedSubop
      ↔ SubopReservedR c.d1ext (mappingOf w).toNat (subopOf w).toNat := by
  have hm := (mappingOf w).isLt
  unfold decodeR
  generalize (mappingOf w).toNat = m at *
  generalize (subopOf w).toNat = sub
  split
  case h_34 =>
    obtain rfl | rfl | rfl | rfl : m = 0 ∨ m = 1 ∨ m = 2 ∨ m = 3 := by omega
    all_goals
      simp only [true_iff, SubopReservedR, imp_false, forall_const, Nat.reduceEqDiff,
        false_imp_iff] at *
      split <;> omega
  all_goals
    simp [SubopReservedR, onlyD1Ext_eq_error_iff, needs_ne_reserved, laneChecked_ne_reserved]

theorem decodeI_ne_reservedOpcode (c : Config) (w : InstrWord) :
    decodeI c w ≠ .error .reservedOpcode := by
  unfold decodeI
  split <;> simp [onlyD1Ext_eq_error_iff, needs_ne_reserved]

/-- The reserved subops of I-type (30 R77, R81; 48 R200, R212). -/
theorem decodeI_eq_reservedSubop_iff (c : Config) (w : InstrWord) :
    decodeI c w = .error .reservedSubop
      ↔ if c.d1ext then
          (0x07 ≤ (subopOf w).toNat ∧ (subopOf w).toNat ≤ 0x0F) ∨ 0x11 ≤ (subopOf w).toNat
        else 0x05 ≤ (subopOf w).toNat := by
  unfold decodeI
  generalize (subopOf w).toNat = sub
  split
  case h_9 =>
    simp only [true_iff, imp_false] at *
    split <;> omega
  all_goals simp [onlyD1Ext_eq_error_iff, needs_ne_reserved]

theorem decodeJ_ne_reservedOpcode (c : Config) (w : InstrWord) :
    decodeJ c w ≠ .error .reservedOpcode := by
  unfold decodeJ
  split <;> simp [needs_ne_reserved]

/-- The reserved subops of J-type (46 R170). -/
theorem decodeJ_eq_reservedSubop_iff (c : Config) (w : InstrWord) :
    decodeJ c w = .error .reservedSubop ↔ 0x01 ≤ (subopOf w).toNat := by
  unfold decodeJ
  generalize (subopOf w).toNat = sub
  split
  · simp [needs_ne_reserved]
  · simp only [true_iff, imp_false] at *
    omega

theorem decodeS_ne_reservedOpcode (c : Config) (w : InstrWord) :
    decodeS c w ≠ .error .reservedOpcode := by
  unfold decodeS
  split <;> simp [bankChecked_ne_reserved]

/-- The reserved subops of S-type (47 R180). -/
theorem decodeS_eq_reservedSubop_iff (c : Config) (w : InstrWord) :
    decodeS c w = .error .reservedSubop ↔ 0x04 ≤ (subopOf w).toNat := by
  unfold decodeS
  generalize (subopOf w).toNat = sub
  split
  case h_5 =>
    simp only [true_iff, imp_false] at *
    omega
  all_goals simp [bankChecked_ne_reserved]

/-- The reserved opcodes (30 R76): the four formats never answer that error. -/
theorem decode_eq_reservedOpcode_iff (c : Config) (w : InstrWord) :
    decode c w = .error .reservedOpcode ↔ (opcodeOf w).toNat = 0 ∨ 5 ≤ (opcodeOf w).toNat := by
  unfold decode
  generalize (opcodeOf w).toNat = op
  split
  · simp [decodeR_ne_reservedOpcode]
  · simp [decodeI_ne_reservedOpcode]
  · simp [decodeJ_ne_reservedOpcode]
  · simp [decodeS_ne_reservedOpcode]
  · simp only [true_iff, imp_false] at *
    omega

/-! ### The statements -/

/-- Settles O1: the word has the fields that were packed, so decoding takes the instruction's row and
its checks hold. -/
theorem decodeOfEncode : Obligations.DecodeOfEncode :=
  fun _ _ h => decode_encode h

/-- Settles O2: a word whose unused bits are zero is the packing of the operand fields read from it. -/
theorem encodeOfDecode : Obligations.EncodeOfDecode :=
  fun _ _ _ hc h => encode_of_decode hc h

/-- Settles O3, by the operand checks of each format. -/
theorem decodedIsWellFormed : Obligations.DecodedIsWellFormed :=
  fun _ _ _ h => wellFormed_of_decode h

/-- Settles O5: below the opcode each format answers the reserved subops of its own table. -/
theorem reservedEncodingsRefused : Obligations.ReservedEncodingsRefused := by
  intro c w op m sub reservedSub
  have mapped {m' : Nat} (hop : op = 1) (hm : m = m') :
      reservedSub ↔ SubopReservedR c.d1ext m' sub :=
    hm ▸ (Eq.congr_left (decode_eq_decodeR hop c)).trans (decodeR_eq_reservedSubop_iff c w)
  exact ⟨decode_eq_reservedOpcode_iff c w, mapped, mapped, mapped, mapped,
    fun hop => (Eq.congr_left (decode_eq_decodeI hop c)).trans (decodeI_eq_reservedSubop_iff c w),
    fun hop => (Eq.congr_left (decode_eq_decodeJ hop c)).trans (decodeJ_eq_reservedSubop_iff c w),
    fun hop => (Eq.congr_left (decode_eq_decodeS hop c)).trans (decodeS_eq_reservedSubop_iff c w)⟩

/-- A word computed as the encoding of an instruction of the build decodes to that instruction. -/
theorem decode_eq_of_encode {c : Config} {w : InstrWord} {i : Instr} (hi : wellFormed c i = true)
    (hw : encode i = w) : decode c w = .ok i :=
  hw ▸ decode_encode hi

/-- Settles O4: each word is the encoding of its instruction, which the decided build has. -/
theorem sampleWordsDecode : Obligations.SampleWordsDecode := by
  refine ⟨?_, ?_, ?_, ?_, ?_, ?_, ?_, ?_⟩ <;>
    exact decode_eq_of_encode (by decide) (by decide)

end Sys2Proof

namespace Sys2Proof.Machine

/-- Inside the program and with no fault recorded, a word that is no instruction is recorded as
illegal (60 R232). -/
theorem step_eq_raise_illegalInstruction {s : State} {e : DecodeError} (hf : s.fault = none)
    (h0 : 0 ≤ s.pc) (hpc : s.pc < s.progLen) (hd : decode s.cfg s.fetchWord = .error e) :
    step s = .next (s.raise (.illegalInstruction s.fetchWord)) := by
  have hend : ¬ s.pc = s.progLen := by omega
  have hin : ¬ (s.pc < 0 ∨ (s.progLen : Int) < s.pc) := by omega
  simp only [step, hf, hend, hin, hd, if_false]

/-- Settles O7: raising changes the fault record and nothing else. -/
theorem stepRaisesIllegalInstruction : Obligations.StepRaisesIllegalInstruction :=
  fun _ _ hf h0 hpc hd => step_eq_raise_illegalInstruction hf h0 hpc hd

end Sys2Proof.Machine

/-! Fixed-point arithmetic (40 R90 to R109): it never traps, what negation does at `MIN64`, and the
results in range, which no overflow setting and no free value reaches. -/

namespace Sys2Proof.Machine

/-! ### No arithmetic instruction and no jump raises (40 R108) -/

/-- Only an instruction whose rule can raise changes the fault record. -/
theorem ExecEffect.fault_eq {i : Instr} {s t : State} (h : ExecEffect i s t)
    (hi : mayRaise i = false) : t.fault = s.fault := by
  cases h with
  | scalar | scalarDrawn | vector | vectorDrawn | jump | notTaken | storeLanes | storeElem => simp
  | trap _ _ _ e | illegal e => simp [e] at hi

/-! ### Negation of a half (40 R98, R99) -/

/-- Negating the integer of a half and wrapping it is two's-complement negation of the half. -/
theorem wrap64_neg_qext (h : Half) : wrap64 (-qext h) = -h := by
  unfold wrap64 qext
  rw [BitVec.ofInt_neg, BitVec.ofInt_toInt]

theorem wraps_neg (h : Half) : Wraps (-h.toInt) (-h) := by
  have := wraps_wrap64 (-qext h)
  rwa [wrap64_neg_qext] at this

/-- The corner of 40 R98: `MIN64` is its own negation. -/
theorem neg_eq_self_of_toInt_eq_min {h : Half} (hmin : h.toInt = -2 ^ 63) : -h = h := by
  have e : h = min64 := BitVec.eq_of_toInt_eq (hmin.trans (by decide))
  rw [e]
  decide

theorem cNeg_eq (a : Cplx) : cNeg a = ⟨-a.re, -a.im⟩ := by
  simp only [cNeg, wrap64_neg_qext]

theorem cConj_eq (a : Cplx) : cConj a = ⟨a.re, -a.im⟩ := by
  simp only [cConj, wrap64_neg_qext]

/-! ### Sums and products, for every relation that the overflow handler meets

Each handler, `ovf_trunc` or `ovf_unspec`, is spoken of through a relation `ovf` between an exact
integer and the half written for it. -/

theorem isSum_cAdd {ovf : Int → Half → Prop} {h : Handler} (a b : Cplx) (H : ∀ p n, ovf n (h p n)) :
    IsSum ovf a b (cAdd h a b) := ⟨H _ _, H _ _⟩

theorem isDifference_cSub {ovf : Int → Half → Prop} {h : Handler} (a b : Cplx)
    (H : ∀ p n, ovf n (h p n)) : IsDifference ovf a b (cSub h a b) := ⟨H _ _, H _ _⟩

/-- Two integers, each rounded once and then handed to a handler (40 R96). -/
theorem isRounded_shr32 {c : Config} {ovf : Int → Half → Prop} {h : Handler} (re im : Int)
    (H : ∀ p n, ovf n (h p n)) : IsRounded c ovf re im ⟨h .re (shr32 c re), h .im (shr32 c im)⟩ :=
  ⟨⟨_, rounds_rdiv c _ _ (by norm_num), H _ _⟩, ⟨_, rounds_rdiv c _ _ (by norm_num), H _ _⟩⟩

theorem exec_cadd {ovf : Int → Half → Prop} (s : State) (rd a b : SReg)
    (H : ∀ p n, ovf n (truncH s.cfg p n)) :
    ∃ t, exec (.cadd rd a b) s = .next t
      ∧ ScalarResult s t rd (IsSum ovf (s.readS a) (s.readS b)) :=
  ⟨_, rfl, .of_finishS _ _ _ _ fun _ => isSum_cAdd _ _ H⟩

theorem exec_csub {ovf : Int → Half → Prop} (s : State) (rd a b : SReg)
    (H : ∀ p n, ovf n (truncH s.cfg p n)) :
    ∃ t, exec (.csub rd a b) s = .next t
      ∧ ScalarResult s t rd (IsDifference ovf (s.readS a) (s.readS b)) :=
  ⟨_, rfl, .of_finishS _ _ _ _ fun _ => isDifference_cSub _ _ H⟩

theorem exec_cmul {ovf : Int → Half → Prop} (s : State) (rd a b : SReg)
    (H : ∀ p n, ovf n (truncH s.cfg p n)) :
    ∃ t, exec (.cmul rd a b) s = .next t
      ∧ ScalarResult s t rd (IsProduct s.cfg ovf (s.readS a) (s.readS b)) :=
  ⟨_, rfl, .of_finishS _ _ _ _ fun _ => isProduct_cMul _ _ _ _ _ H⟩

theorem exec_vmul {ovf : Int → Half → Prop} (s : State) (rd a b : VReg)
    (H : ∀ lane p n, ovf n (unspecH s.cfg s.freeCount lane p n)) :
    ∃ t, exec (.vmul rd a b) s = .next t
      ∧ VectorResult s t rd fun k => IsProduct s.cfg ovf (s.lane a k) (s.lane b k) :=
  ⟨_, rfl, (VectorResult.of_finishV _ _ _ _ fun _ k _ => isProduct_cMul _ _ _ _ _ (H k)).drawn⟩

theorem exec_vsmul {ovf : Int → Half → Prop} (s : State) (rd a : VReg) (b : SReg)
    (H : ∀ p n, ovf n (truncH s.cfg p n)) :
    ∃ t, exec (.vsmul rd a b) s = .next t
      ∧ VectorResult s t rd fun k => IsProduct s.cfg ovf (s.lane a k) (s.readS b) :=
  ⟨_, rfl, .of_finishV _ _ _ _ fun _ _ _ => isProduct_cMul _ _ _ _ _ H⟩

/-- The exact sum of the products of all lanes is rounded once (43 R141). -/
theorem exec_dotu {ovf : Int → Half → Prop} (s : State) (rd : SReg) (a b : VReg)
    (H : ∀ p n, ovf n (unspecH s.cfg s.freeCount 0 p n)) :
    ∃ t, exec (.dotu rd a b) s = .next t ∧ ScalarResult s t rd (IsRounded s.cfg ovf
      (∑ k ∈ Finset.range s.cfg.vlen, mulRe (s.lane a k) (s.lane b k))
      (∑ k ∈ Finset.range s.cfg.vlen, mulIm (s.lane a k) (s.lane b k))) := by
  simp only [← State.sumLanes_eq_sum]
  exact ⟨_, rfl, (ScalarResult.of_finishS _ _ _ _ fun _ => isRounded_shr32 _ _ H).drawn⟩

/-- The exact sum of all lanes is reduced once (43 R143). -/
theorem exec_sum {ovf : Int → Half → Prop} (s : State) (rd : SReg) (a : VReg)
    (H : ∀ p n, ovf n (unspecH s.cfg s.freeCount 0 p n)) :
    ∃ t, exec (.sum rd a) s = .next t ∧ ScalarResult s t rd fun z =>
      ovf (∑ k ∈ Finset.range s.cfg.vlen, (s.lane a k).re.toInt) z.re
        ∧ ovf (∑ k ∈ Finset.range s.cfg.vlen, (s.lane a k).im.toInt) z.im := by
  simp only [← State.sumLanes_eq_sum]
  exact ⟨_, rfl, (ScalarResult.of_finishS _ _ _ _ fun _ => ⟨H _ _, H _ _⟩).drawn⟩

/-! ### Results in range, from two states -/

theorem exactInRange_truncH (c : Config) (p : Part) (n : Int) : ExactInRange n (truncH c p n) :=
  exactInRange_ovfTrunc c n

theorem exactInRange_unspecH (c : Config) (count lane : Nat) (p : Part) (n : Int) :
    ExactInRange n (unspecH c count lane p n) :=
  exactInRange_ovfUnspec c _ n

theorem BothScalar.of_each {i : Instr} {s s' : State} {rd : SReg} {P : Cplx → Prop}
    (hs : ∃ t, exec i s = .next t ∧ ScalarResult s t rd P)
    (hs' : ∃ t, exec i s' = .next t ∧ ScalarResult s' t rd P) : BothScalar i s s' rd P := by
  obtain ⟨t, ht, hresult⟩ := hs
  obtain ⟨t', ht', hresult'⟩ := hs'
  exact ⟨t, t', ht, ht', hresult, hresult'⟩

theorem BothVector.of_each {i : Instr} {s s' : State} {rd : VReg} {P : Nat → Cplx → Prop}
    (hs : ∃ t, exec i s = .next t ∧ VectorResult s t rd P)
    (hs' : ∃ t, exec i s' = .next t ∧ VectorResult s' t rd P) : BothVector i s s' rd P := by
  obtain ⟨t, ht, hresult⟩ := hs
  obtain ⟨t', ht', hresult'⟩ := hs'
  exact ⟨t, t', ht, ht', hresult, hresult'⟩

/-! ### The statements -/

/-- Settles O15, by the effects an instruction can have. -/
theorem arithmeticNeverTraps : Obligations.ArithmeticNeverTraps := by
  intro i s hi
  obtain ⟨t, ht, effect⟩ := exec_effect i s
  exact ⟨t, ht, effect.fault_eq hi⟩

/-- Settles O52. Both overflow handlers keep a result in range, and the operands, the number of lanes
and the rounding of the second state are by definition those of the first. -/
theorem exactInRangeWhateverTheFreeValue : Obligations.ExactInRangeWhateverTheFreeValue := by
  intro s ot ou n rd a b s'
  have trunc (u : State) := exactInRange_truncH u.cfg
  have unspec (u : State) := exactInRange_unspecH u.cfg u.freeCount
  refine ⟨?cadd, ?csub, ?cmul, ?vmul, ?vsmul, ?dotu, ?sum⟩
  case cadd => exact .of_each (exec_cadd s rd a b (trunc s)) (exec_cadd s' rd a b (trunc s'))
  case csub => exact .of_each (exec_csub s rd a b (trunc s)) (exec_csub s' rd a b (trunc s'))
  case cmul => exact .of_each (exec_cmul s rd a b (trunc s)) (exec_cmul s' rd a b (trunc s'))
  case vmul => exact .of_each (exec_vmul s rd a b (unspec s)) (exec_vmul s' rd a b (unspec s'))
  case vsmul => exact .of_each (exec_vsmul s rd a b (trunc s)) (exec_vsmul s' rd a b (trunc s'))
  case dotu => exact .of_each (exec_dotu s rd a b (unspec s 0)) (exec_dotu s' rd a b (unspec s' 0))
  case sum => exact .of_each (exec_sum s rd a (unspec s 0)) (exec_sum s' rd a (unspec s' 0))

/-- Settles O19: both instructions negate by `wrap64`, which is two's-complement negation. -/
theorem negateAndConjugate : Obligations.NegateAndConjugate := by
  intro s rd a x
  constructor
  · refine ⟨_, rfl, .of_finishS _ _ _ _ fun _ => ?_⟩
    rw [cNeg_eq]
    exact ⟨rfl, wraps_neg x.re, wraps_neg x.im, neg_eq_self_of_toInt_eq_min,
      neg_eq_self_of_toInt_eq_min⟩
  · refine ⟨_, rfl, .of_finishS _ _ _ _ fun _ => ?_⟩
    rw [cConj_eq]
    exact ⟨rfl, wraps_neg x.im, neg_eq_self_of_toInt_eq_min⟩

end Sys2Proof.Machine

/-! The scalar instructions of the BASE profile (41 R110 to R122): each writes the value of its rule
and nothing else, and the root instructions answer the truncated root over the reals. -/

namespace Sys2Proof.Machine

/-! ### Quotients (41 R118, R122) -/

theorem exec_cdiv {ovf : Int → Half → Prop} (s : State) (rd a b : SReg)
    (H : ∀ p n, ovf n (unspecH s.cfg s.freeCount 0 p n)) :
    ∃ t, exec (.cdiv rd a b) s = .next t
      ∧ ScalarResult s t rd (IsQuotient s.cfg ovf (s.readS a) (s.readS b)) :=
  ⟨_, rfl, (ScalarResult.of_finishS _ _ _ _ fun _ => isQuotient_cDiv _ _ _ _ _ H).drawn⟩

theorem exec_crecip {ovf : Int → Half → Prop} (s : State) (rd a : SReg)
    (H : ∀ p n, ovf n (unspecH s.cfg s.freeCount 0 p n)) :
    ∃ t, exec (.crecip rd a) s = .next t
      ∧ ScalarResult s t rd (IsQuotient s.cfg ovf ⟨one64, 0#64⟩ (s.readS a)) :=
  ⟨_, rfl, (ScalarResult.of_finishS _ _ _ _ fun _ => isQuotient_cDiv _ _ _ _ _ H).drawn⟩

/-- A quotient without remainder is what it is rounded to, in either direction (40 R95). -/
theorem Rounds.eq_of_mul {c : Config} {k d q : Int} (hd : 0 < d) (h : Rounds c (k * d) d q) :
    q = k := by
  unfold Rounds at h
  have le_iff (i j : Int) : i * d ≤ j * d ↔ i ≤ j := Int.mul_le_mul_right hd
  have lt_iff (i j : Int) : i * d < j * d ↔ i < j := Int.mul_lt_mul_right hd
  have sign : 0 ≤ k * d ∨ k * d < 0 := le_or_gt _ _
  split at h
  case h_1 => simp only [le_iff, lt_iff] at h; omega
  case h_2 =>
    obtain ⟨nonneg, neg⟩ := h
    simp only [le_iff, lt_iff] at nonneg neg
    omega

/-- The two numerators of `a / a` are `|a|^2` and 0, so that both quotients are integers. -/
theorem IsQuotient.self_eq_one {c : Config} {a z : Cplx} (ha : a ≠ Cplx.zero)
    (h : IsQuotient c ExactInRange a a z) : z = ⟨one64, 0#64⟩ := by
  obtain ⟨⟨qre, hre, ore⟩, qim, him, oim⟩ := h.2 ha
  have hpos : 0 < a.re.toInt ^ 2 + a.im.toInt ^ 2 := by
    rw [← sqMag, sqMag_eq_mag2]
    exact lt_of_le_of_ne (mag2_nonneg a) fun e => ha ((mag2_eq_zero a).1 e.symm)
  have ere : (a.re.toInt * a.re.toInt + a.im.toInt * a.im.toInt) * 2 ^ 32
      = 2 ^ 32 * (a.re.toInt ^ 2 + a.im.toInt ^ 2) := by ring
  have eim : (a.im.toInt * a.re.toInt - a.re.toInt * a.im.toInt) * 2 ^ 32
      = 0 * (a.re.toInt ^ 2 + a.im.toInt ^ 2) := by ring
  rw [ere] at hre
  rw [eim] at him
  obtain rfl := hre.eq_of_mul hpos
  obtain rfl := him.eq_of_mul hpos
  have zre : z.re = one64 := BitVec.eq_of_toInt_eq (ore (by decide))
  have zim : z.im = 0#64 := BitVec.eq_of_toInt_eq (oim (by decide))
  rw [← zre, ← zim]

/-! ### The magnitude (41 R115) -/

theorem rootResult_nonneg (c : Config) (count slot : Nat) {n : Int} (hn : 0 ≤ n) :
    0 ≤ rootResult c count slot (some 0) n := by
  unfold rootResult
  split
  · exact hn
  · exact le_max_left _ _

theorem truncates_zero (c : Config) : Truncates c 0 0#64 := by
  have h : ovfTrunc c 0 = 0#64 :=
    BitVec.eq_of_toInt_eq (ovfTrunc_of_inRange c 0 (by decide))
  exact h ▸ truncates_ovfTrunc c 0

@[simp] theorem rSqrtMag_zero : rSqrtMag Cplx.zero = 0 := by
  rw [rSqrtMag, (mag2_eq_zero _).2 rfl, isqrt_eq_sqrt]
  simp

/-- The integer whose range reduction `cabs` writes: a root result of `r_sqrt_mag`, and 0 for a zero
operand (40 R105, U6). -/
theorem exists_root_cAbsRe (c : Config) (count : Nat) (a : Cplx) :
    ∃ m : Int, NearRoot c (rSqrtMag a) m ∧ 0 ≤ m ∧ (a = Cplx.zero → m = 0)
      ∧ Truncates c m (cAbsRe c count a) := by
  have hr : 0 ≤ rSqrtMag a := (rSqrtMag_spec a).1
  unfold cAbsRe
  split
  case isTrue ha =>
    subst ha
    exact ⟨0, by simp [NearRoot], le_rfl, fun _ => rfl, truncates_zero c⟩
  case isFalse ha =>
    exact ⟨_, near_rootResult c count 0 (some 0) _ (by simpa using hr), rootResult_nonneg c count 0 hr,
      fun e => absurd e ha, truncates_ovfTrunc c _⟩

/-! ### The statements on sums, products, quotients, magnitudes and halves -/

/-- Settles O20. -/
theorem realAndImaginaryParts : Obligations.RealAndImaginaryParts := by
  intro s rd a
  refine ⟨⟨subopOf_packR .., ?creal⟩, subopOf_packR .., ?cimag⟩
  case creal => exact ⟨_, rfl, .of_finishS _ _ _ _ fun _ => rfl⟩
  case cimag => exact ⟨_, rfl, .of_finishS _ _ _ _ fun _ => rfl⟩

/-- Settles O21. -/
theorem addAndSubtractTruncate : Obligations.AddAndSubtractTruncate := fun s rd a b =>
  have trunc (_ : Part) (n : Int) := truncates_ovfTrunc s.cfg n
  ⟨exec_cadd s rd a b trunc, exec_csub s rd a b trunc⟩

/-- Settles O22. -/
theorem multiplyTruncates : Obligations.MultiplyTruncates := fun s rd a b =>
  exec_cmul s rd a b fun _ => truncates_ovfTrunc s.cfg

/-- Settles O23. -/
theorem divideAndReciprocal : Obligations.DivideAndReciprocal := fun s rd a b =>
  have unspec := unspecified_unspecH s.cfg s.freeCount 0
  ⟨exec_cdiv s rd a b unspec, exec_crecip s rd a unspec⟩

/-- Settles O24. -/
theorem squaredMagnitude : Obligations.SquaredMagnitude := by
  intro s rd a
  refine ⟨_, rfl, .of_finishS _ _ _ _ fun _ => ⟨rfl, shr32 s.cfg (mag2 (s.readS a)), ?rounds, ?trunc⟩⟩
  case rounds => rw [sqMag_eq_mag2]; exact rounds_rdiv _ _ _ (by norm_num)
  case trunc => exact truncates_ovfTrunc _ _

/-- Settles O25: the root is `r_sqrt_mag`, the greatest integer whose square the sum of squares
holds. -/
theorem magnitudeIsIntegerSquareRoot : Obligations.MagnitudeIsIntegerSquareRoot := by
  intro s rd a
  refine ⟨_, rfl, (ScalarResult.of_finishS _ _ _ _ fun _ => ⟨rfl, ?_⟩).drawn⟩
  obtain ⟨hr, hle, hlt⟩ := rSqrtMag_spec (s.readS a)
  obtain ⟨m, hm⟩ := exists_root_cAbsRe s.cfg s.freeCount (s.readS a)
  exact ⟨_, m, hr, hle, hlt, hm⟩

/-- Settles O54: a quotient of one is in range, so every overflow setting keeps it. -/
theorem quotientOfEqualsIsOne : Obligations.QuotientOfEqualsIsOne := by
  intro s rd a ha hrd
  obtain ⟨t, ht, hresult⟩ := exec_cdiv s rd a a (exactInRange_unspecH s.cfg s.freeCount 0)
  exact ⟨t, ht, (hresult.value hrd).self_eq_one ha⟩

end Sys2Proof.Machine

/-! The principal square root (40 R104). The model works on integers: it takes the floor of `2^31 m`,
`m` being the magnitude, adds or subtracts `2^31 x` and takes the integer square root. Over the reals a
floor below a square root does not change the floor above it. -/

namespace Sys2Proof.Machine

/-! ### Floors of real numbers -/

theorem isFloor_natCast (n : Nat) : IsFloor (n : ℝ) n :=
  ⟨by simp, by simp⟩

theorem IsFloor.add_int {r : ℝ} {p : Int} (h : IsFloor r p) (n : Int) : IsFloor (r + n) (p + n) := by
  obtain ⟨hle, hlt⟩ := h
  constructor <;> push_cast <;> linarith

theorem IsFloor.sub_int {r : ℝ} {p : Int} (h : IsFloor r p) (n : Int) : IsFloor (r - n) (p - n) := by
  simpa [sub_eq_add_neg] using h.add_int (-n)

theorem IsFloor.nonneg {r : ℝ} {p : Int} (h : IsFloor r p) (hr : 0 ≤ r) : 0 ≤ p := by
  have hp : (0 : ℝ) < ((p + 1 : Int) : ℝ) := by push_cast; exact hr.trans_lt h.2
  exact Int.lt_add_one_iff.1 (by exact_mod_cast hp)

/-- The integer square root of a floor is the floor of the square root. -/
theorem isFloor_sqrt {r : ℝ} {n : Nat} (h : IsFloor r n) : IsFloor √r (isqrt n) := by
  obtain ⟨hle, hlt⟩ := h
  obtain ⟨sq_le, lt_sq⟩ := isqrt_spec n
  constructor
  · refine Real.le_sqrt_of_sq_le (le_trans ?_ hle)
    rw [pow_two]
    exact_mod_cast sq_le
  · refine (Real.sqrt_lt' (by positivity)).2 (lt_of_lt_of_le hlt ?_)
    rw [pow_two]
    exact_mod_cast lt_sq

/-- The square root is an integer exactly when no floor on the way dropped a fraction. -/
theorem sqrt_eq_isqrt_iff {r : ℝ} {n : Nat} (h : IsFloor r n) :
    √r = isqrt n ↔ r = n ∧ isqrtExact n = true := by
  have hle : (n : ℝ) ≤ r := h.1
  have sq_le : (isqrt n : ℝ) * isqrt n ≤ n := by exact_mod_cast (isqrt_spec n).1
  have exact_iff : isqrtExact n = true ↔ (isqrt n : ℝ) * isqrt n = n := by
    rw [isqrtExact, decide_eq_true_iff]; exact_mod_cast Iff.rfl
  rw [exact_iff, Real.sqrt_eq_iff_mul_self_eq ((Nat.cast_nonneg n).trans hle) (Nat.cast_nonneg _)]
  constructor
  · intro e
    constructor <;> linarith
  · rintro ⟨hr, hn⟩
    rw [hn, hr]

/-- A number that is no integer is rounded down to one less on the other side of zero. -/
theorem IsFloor.neg_of_ne {r : ℝ} {p : Int} (h : IsFloor r p) (hne : r ≠ p) :
    IsFloor (-r) (-(p + 1)) := by
  have hlt : (p : ℝ) < r := lt_of_le_of_ne h.1 hne.symm
  have := h.2
  constructor <;> push_cast <;> linarith

theorem isFloor_neg_int (p : Int) : IsFloor (-(p : ℝ)) (-p) := by
  constructor <;> push_cast <;> linarith

/-! ### The integers of the model as floors -/

/-- `2^31 m`, where `m` is the magnitude of `a` (40 R104). -/
noncomputable def scaledMag (a : Cplx) : ℝ := 2 ^ 31 * √((a.re.toInt : ℝ) ^ 2 + (a.im.toInt : ℝ) ^ 2)

theorem scaledMag_eq_sqrt (a : Cplx) : scaledMag a = √((2 ^ 62 * mag2 a).toNat : ℝ) := by
  have cast : ((2 ^ 62 * mag2 a).toNat : ℝ)
      = (2 ^ 31) ^ 2 * ((a.re.toInt : ℝ) ^ 2 + (a.im.toInt : ℝ) ^ 2) := by
    have nonneg : 0 ≤ 2 ^ 62 * mag2 a := by have := mag2_nonneg a; omega
    rw [← Int.cast_natCast, Int.toNat_of_nonneg nonneg, ← sqMag_eq_mag2, sqMag]
    push_cast
    ring
  rw [cast, Real.sqrt_mul (by positivity), Real.sqrt_sq (by positivity), scaledMag]

theorem isFloor_sqrtT (a : Cplx) : IsFloor (scaledMag a) (sqrtT a) := by
  rw [scaledMag_eq_sqrt]
  exact isFloor_sqrt (isFloor_natCast _)

theorem scaledMag_eq_sqrtT_iff (a : Cplx) :
    scaledMag a = sqrtT a ↔ isqrtExact (2 ^ 62 * mag2 a).toNat = true := by
  rw [scaledMag_eq_sqrt]
  exact (sqrt_eq_isqrt_iff (isFloor_natCast _)).trans (and_iff_right rfl)

theorem cast_scaled_re (a : Cplx) : ((2 ^ 31 * qext a.re : Int) : ℝ) = 2 ^ 31 * a.re.toInt := by
  rw [Int.cast_mul, qext]; norm_num

/-- `|x| <= m`, scaled: why neither radicand is negative. -/
theorem abs_scaled_re_le (a : Cplx) : |((2 ^ 31 * qext a.re : Int) : ℝ)| ≤ scaledMag a := by
  rw [cast_scaled_re, abs_mul, abs_of_pos (by positivity)]
  refine mul_le_mul_of_nonneg_left (Real.abs_le_sqrt ?_) (by positivity)
  linarith [sq_nonneg (a.im.toInt : ℝ)]

theorem radicand_re_nonneg (a : Cplx) : 0 ≤ (sqrtT a : Int) + 2 ^ 31 * qext a.re :=
  ((isFloor_sqrtT a).add_int _).nonneg (by linarith [neg_le_of_abs_le (abs_scaled_re_le a)])

theorem radicand_im_nonneg (a : Cplx) : 0 ≤ (sqrtT a : Int) - 2 ^ 31 * qext a.re :=
  ((isFloor_sqrtT a).sub_int _).nonneg (by linarith [le_of_abs_le (abs_scaled_re_le a)])

theorem natCast_sqrtA (a : Cplx) : (sqrtA a : Int) = sqrtT a - 2 ^ 31 * qext a.re :=
  Int.toNat_of_nonneg (radicand_im_nonneg a)

/-- What is under the root of the real half. -/
theorem isFloor_radicand_re (a : Cplx) :
    IsFloor (scaledMag a + 2 ^ 31 * a.re.toInt) ((sqrtT a : Int) + 2 ^ 31 * qext a.re).toNat := by
  rw [Int.toNat_of_nonneg (radicand_re_nonneg a), ← cast_scaled_re]
  exact (isFloor_sqrtT a).add_int _

/-- What is under the root of the imaginary half. -/
theorem isFloor_radicand_im (a : Cplx) : IsFloor (scaledMag a - 2 ^ 31 * a.re.toInt) (sqrtA a) := by
  rw [natCast_sqrtA, ← cast_scaled_re]
  exact (isFloor_sqrtT a).sub_int _

/-! ### The halves of the exact truncated root -/

theorem isRootRe_sqrtRe (a : Cplx) : IsRootRe a (sqrtRe a) := by
  unfold IsRootRe
  rw [mul_add, ← scaledMag]
  exact isFloor_sqrt (isFloor_radicand_re a)

/-- `|Q|`, the imaginary half without its sign and before its fraction is discarded (40 R104). -/
noncomputable def absRootIm (a : Cplx) : ℝ := √(scaledMag a - 2 ^ 31 * a.re.toInt)

theorem isFloor_absRootIm (a : Cplx) : IsFloor (absRootIm a) (isqrt (sqrtA a)) :=
  isFloor_sqrt (isFloor_radicand_im a)

/-- The radicand is an integer exactly when `2^31 m` is: the integer `2^31 x` stands between
them. -/
theorem radicand_im_eq_sqrtA_iff (a : Cplx) :
    scaledMag a - 2 ^ 31 * a.re.toInt = sqrtA a ↔ scaledMag a = sqrtT a := by
  have cast : (sqrtA a : ℝ) = sqrtT a - 2 ^ 31 * a.re.toInt := by
    rw [← cast_scaled_re]
    exact_mod_cast congrArg (Int.cast (R := ℝ)) (natCast_sqrtA a)
  rw [cast, sub_left_inj]

/-- The model's test for a root without fraction (40 R104). -/
theorem absRootIm_eq_isqrt_iff (a : Cplx) : absRootIm a = isqrt (sqrtA a) ↔
    (isqrtExact (2 ^ 62 * mag2 a).toNat && isqrtExact (sqrtA a)) = true := by
  rw [absRootIm, sqrt_eq_isqrt_iff (isFloor_radicand_im a), radicand_im_eq_sqrtA_iff,
    scaledMag_eq_sqrtT_iff, Bool.and_eq_true]

theorem isRootIm_sqrtIm (c : Config) (a : Cplx) : IsRootIm c a (sqrtIm c a) := by
  have abs_eq : √(2 ^ 31 * (√((a.re.toInt : ℝ) ^ 2 + (a.im.toInt : ℝ) ^ 2) - (a.re.toInt : ℝ)))
      = absRootIm a := by
    rw [mul_sub, ← scaledMag, absRootIm]
  have floorQ := isFloor_absRootIm a
  simp only [IsRootIm, sqrtIm, abs_eq, ← absRootIm_eq_isqrt_iff, qext]
  refine ⟨fun hy => ?nonneg, fun hy hfloor => ?floor, fun hy hzero => ?towardZero⟩
  case nonneg => rwa [if_pos hy]
  case towardZero => rwa [if_neg (by omega), if_pos (.inl hzero), neg_neg]
  case floor =>
    rw [if_neg (by omega), hfloor]
    split
    case isTrue h =>
      rw [h.resolve_left (by decide)]
      exact isFloor_neg_int _
    case isFalse h => exact floorQ.neg_of_ne fun e => h (.inr e)

/-! ### The halves are small (40 R104): no result of `csqrt` leaves the range -/

theorem isqrt_lt {n b : Nat} (h : n < b * b) : isqrt n < b := by
  rw [isqrt_eq_sqrt]; exact Nat.sqrt_lt.2 h

theorem qext_sq_le (h : Half) : qext h * qext h ≤ 2 ^ 126 := by
  obtain ⟨hlo, hhi⟩ := qext_bounds h
  nlinarith

theorem sqrtT_lt (a : Cplx) : sqrtT a < 2 ^ 95 := by
  have hre := qext_sq_le a.re
  have him := qext_sq_le a.im
  refine isqrt_lt ?_
  unfold mag2
  omega

theorem sqrtRe_bounds (a : Cplx) : 0 ≤ sqrtRe a ∧ sqrtRe a < 2 ^ 48 := by
  have hT := sqrtT_lt a
  obtain ⟨hlo, hhi⟩ := qext_bounds a.re
  have h : isqrt ((sqrtT a : Int) + 2 ^ 31 * qext a.re).toNat < 2 ^ 48 := isqrt_lt (by omega)
  unfold sqrtRe
  omega

theorem sqrtIm_bounds (c : Config) (a : Cplx) : -2 ^ 48 ≤ sqrtIm c a ∧ sqrtIm c a < 2 ^ 48 := by
  have hT := sqrtT_lt a
  obtain ⟨hlo, hhi⟩ := qext_bounds a.re
  have h : isqrt (sqrtA a) < 2 ^ 48 := isqrt_lt (by unfold sqrtA; omega)
  simp only [sqrtIm]
  split_ifs <;> omega

/-- An integer within one of a small one is the integer of the half it is written to. -/
theorem toInt_wrap64_of_near {c : Config} {n m : Int} (h : NearRoot c n m) (hlo : -2 ^ 48 ≤ n)
    (hhi : n < 2 ^ 48) : (wrap64 m).toInt = m := by
  obtain ⟨-, hle, hge⟩ := h
  exact qext_wrap64_of_inRange m ⟨by omega, by omega⟩

/-! ### The result of `csqrt` (41 R113, U6) -/

@[simp] theorem toInt_zero_re : Cplx.zero.re.toInt = 0 := by decide
@[simp] theorem toInt_zero_im : Cplx.zero.im.toInt = 0 := by decide

theorem sqrtT_zero : sqrtT Cplx.zero = 0 := by
  simp [sqrtT, isqrt_eq_sqrt, (mag2_eq_zero Cplx.zero).2 rfl]

theorem sqrtRe_zero : sqrtRe Cplx.zero = 0 := by
  simp [sqrtRe, sqrtT_zero, isqrt_eq_sqrt, qext]

theorem sqrtIm_zero (c : Config) : sqrtIm c Cplx.zero = 0 := by
  have hA : sqrtA Cplx.zero = 0 := by simp [sqrtA, sqrtT_zero, qext]
  simp [sqrtIm, hA, isqrt_eq_sqrt, qext]

/-- U6 of the real half, and its own clause that this half is not negative. -/
theorem nearRoot_cSqrt_re (c : Config) (count : Nat) (a : Cplx) :
    NearRoot c (sqrtRe a) (cSqrt c count a).re.toInt ∧ 0 ≤ (cSqrt c count a).re.toInt := by
  obtain ⟨nonneg, small⟩ := sqrtRe_bounds a
  unfold cSqrt
  split
  case isTrue ha => simp [ha, NearRoot, sqrtRe_zero]
  case isFalse ha =>
    have near := near_rootResult c count 0 (some 0) (sqrtRe a) (by simpa using nonneg)
    rw [toInt_wrap64_of_near near (by omega) small]
    exact ⟨near, rootResult_nonneg c count 0 nonneg⟩

theorem nearRoot_cSqrt_im (c : Config) (count : Nat) (a : Cplx) :
    NearRoot c (sqrtIm c a) (cSqrt c count a).im.toInt := by
  obtain ⟨hlo, hhi⟩ := sqrtIm_bounds c a
  unfold cSqrt
  split
  case isTrue ha => simp [ha, NearRoot, sqrtIm_zero]
  case isFalse ha =>
    have near := near_rootResult c count 1 none (sqrtIm c a) (by simp)
    rwa [toInt_wrap64_of_near near hlo hhi]

/-- Settles O26: the integers of the model are the floors of the real halves, small enough that the
free error of U6 keeps them in range. -/
theorem squareRootIsTruncatedPrincipalRoot : Obligations.SquareRootIsTruncatedPrincipalRoot := by
  intro s rd a
  refine ⟨_, rfl, (ScalarResult.of_finishS _ _ _ _ fun _ => ?_).drawn⟩
  obtain ⟨nearRe, nonneg⟩ := nearRoot_cSqrt_re s.cfg s.freeCount (s.readS a)
  have nearIm := nearRoot_cSqrt_im s.cfg s.freeCount (s.readS a)
  exact ⟨⟨_, isRootRe_sqrtRe _, nearRe⟩, ⟨_, isRootIm_sqrtIm s.cfg _, nearIm⟩, nonneg,
    fun ha => if_pos ha⟩

end Sys2Proof.Machine

/-! The lane-wise vector instructions of mapping 01 (42 R130 to R135): the operation of 40 on the lanes
of the two sources, under the overflow handler that the instruction's rule names. -/

namespace Sys2Proof.Machine

/-! ### Each instruction's result -/

/-- The handler of the saturating instructions clamps the half it is given, whichever it is
(40 R92, R107). -/
theorem clamps_satH (p : Part) (n : Int) : Clamps n (satH p n) := clamps_sat64 n

theorem exec_vadd {ovf : Int → Half → Prop} (s : State) (rd a b : VReg)
    (H : ∀ p n, ovf n (satH p n)) :
    ∃ t, exec (.vadd rd a b) s = .next t
      ∧ VectorResult s t rd fun k => IsSum ovf (s.lane a k) (s.lane b k) :=
  ⟨_, rfl, .of_finishV _ _ _ _ fun _ _ _ => isSum_cAdd _ _ H⟩

theorem exec_vsub {ovf : Int → Half → Prop} (s : State) (rd a b : VReg)
    (H : ∀ p n, ovf n (satH p n)) :
    ∃ t, exec (.vsub rd a b) s = .next t
      ∧ VectorResult s t rd fun k => IsDifference ovf (s.lane a k) (s.lane b k) :=
  ⟨_, rfl, .of_finishV _ _ _ _ fun _ _ _ => isDifference_cSub _ _ H⟩

/-- Every lane has its own zero divisor and its own free value (42 R134). -/
theorem exec_vdiv {ovf : Int → Half → Prop} (s : State) (rd a b : VReg)
    (H : ∀ lane p n, ovf n (unspecH s.cfg s.freeCount lane p n)) :
    ∃ t, exec (.vdiv rd a b) s = .next t
      ∧ VectorResult s t rd fun k => IsQuotient s.cfg ovf (s.lane a k) (s.lane b k) :=
  ⟨_, rfl, (VectorResult.of_finishV _ _ _ _ fun _ k _ => isQuotient_cDiv _ _ _ _ _ (H k)).drawn⟩

/-! ### The statements -/

/-- Settles O27: saturation clamps each half by itself. -/
theorem vectorAddAndSubtractSaturate : Obligations.VectorAddAndSubtractSaturate := fun s rd a b =>
  ⟨exec_vadd s rd a b clamps_satH, exec_vsub s rd a b clamps_satH⟩

/-- Settles O28: `ovf_unspec` answers what it may in every lane. -/
theorem vectorMultiply : Obligations.VectorMultiply := fun s rd a b =>
  exec_vmul s rd a b (unspecified_unspecH s.cfg s.freeCount)

/-- Settles O29: `ovf_unspec` answers what it may in every lane whose divisor is not zero. -/
theorem vectorDivide : Obligations.VectorDivide := fun s rd a b =>
  exec_vdiv s rd a b (unspecified_unspecH s.cfg s.freeCount)

/-- Settles O30: the imaginary half is negated by `wrap64`, which is two's-complement negation. -/
theorem vectorConjugate : Obligations.VectorConjugate := fun s _ a =>
  ⟨_, rfl, .of_finishV _ _ _ _ fun _ k _ => cConj_eq (s.lane a k)⟩

end Sys2Proof.Machine

/-! The reductions of mapping 10 (43 R140 to R143; 48 R207, R208): the exact sum over all lanes, brought
to a half once at its end, and the scan for the largest magnitude. -/

namespace Sys2Proof.Machine

/-! ### Sums over the lanes -/

/-- The first operand is conjugated, and the exact sum of the products of all lanes is rounded once
(48 R207). -/
theorem exec_dotc {ovf : Int → Half → Prop} (s : State) (rd : SReg) (a b : VReg)
    (H : ∀ p n, ovf n (unspecH s.cfg s.freeCount 0 p n)) :
    ∃ t, exec (.dotc rd a b) s = .next t ∧ ScalarResult s t rd (IsRounded s.cfg ovf
      (∑ k ∈ Finset.range s.cfg.vlen, conjMulRe (s.lane a k) (s.lane b k))
      (∑ k ∈ Finset.range s.cfg.vlen, conjMulIm (s.lane a k) (s.lane b k))) := by
  simp only [← State.sumLanes_eq_sum]
  exact ⟨_, rfl, (ScalarResult.of_finishS _ _ _ _ fun _ => isRounded_shr32 _ _ H).drawn⟩

/-- Each magnitude is truncated by itself, and their exact sum is reduced once (48 R208). -/
theorem exec_asum {ovf : Int → Half → Prop} (s : State) (rd : SReg) (a : VReg)
    (H : ∀ p n, ovf n (unspecH s.cfg s.freeCount 0 p n)) :
    ∃ t, exec (.asum rd a) s = .next t ∧ ScalarResult s t rd fun z =>
      IsReal z ∧ ovf (∑ k ∈ Finset.range s.cfg.vlen, rSqrtMag (s.lane a k)) z.re := by
  simp only [← State.sumLanes_eq_sum]
  exact ⟨_, rfl, (ScalarResult.of_finishS _ _ _ _ fun _ => ⟨rfl, H _ _⟩).drawn⟩

/-! ### Wrapping sums -/

theorem unspecH_of_wrap {c : Config} (hc : c.ovfUnspec = .wrap) (count lane : Nat) (p : Part)
    (n : Int) : unspecH c count lane p n = wrap64 n := by
  simp only [unspecH, ovfUnspec, hc]

/-- Adding one more half wraps to the same result before the reduction and after it (40 R91). -/
theorem wrap64_add_toInt (n : Int) (h : Half) : wrap64 (n + h.toInt) = wrap64 n + h := by
  simp only [wrap64, BitVec.ofInt_add, BitVec.ofInt_toInt]

theorem State.foldl_add_lanes (s : State) (a : VReg) (half : Cplx → Half) :
    (s.lanes a).foldl (fun acc z => acc + half z) 0#64
      = wrap64 (∑ k ∈ Finset.range s.cfg.vlen, (half (s.lane a k)).toInt) := by
  unfold State.lanes
  induction s.cfg.vlen with
  | zero => rfl
  | succ n ih =>
    rw [Finset.sum_range_succ, wrap64_add_toInt, ← ih, List.range_succ, List.map_append,
      List.foldl_append]
    rfl

/-! ### The lane of largest magnitude (43 R142) -/

/-- The scan starts with lane 0 as the best of the lanes seen. -/
theorem argmax_spec (f : Nat → Cplx) {n : Nat} (hn : 1 ≤ n) :
    let j := argmax ((List.range n).map f)
    j < n ∧ (∀ k < n, mag2 (f k) ≤ mag2 (f j)) ∧ ∀ k < j, mag2 (f k) < mag2 (f j) := by
  obtain ⟨m, rfl⟩ := Nat.exists_eq_add_of_le' hn
  have lane0 : ∀ k < 1, mag2 (f k) ≤ mag2 (f 0) := fun k hk => by rw [Nat.lt_one_iff.1 hk]
  have scan := argmaxFrom_spec f m 1 0 one_pos lane0 fun k hk => absurd hk k.not_lt_zero
  rw [Nat.add_comm] at scan
  rwa [List.range_eq_range', List.range'_succ]

theorem numberHalf_q32_32 (j : Nat) : numberHalf .q32_32 j = BitVec.ofNat 64 (j * 2 ^ 32) :=
  BitVec.ofInt_natCast 64 (j * 2 ^ 32)

theorem numberHalf_raw (j : Nat) : numberHalf .raw j = BitVec.ofNat 64 j := BitVec.ofInt_natCast 64 j

/-! ### The statements -/

/-- Settles O31: `ovf_unspec` answers what it may for each half, rounded once after the exact sum. -/
theorem dotProductsRoundOnce : Obligations.DotProductsRoundOnce := fun s rd a b =>
  have unspec := unspecified_unspecH s.cfg s.freeCount 0
  ⟨exec_dotu s rd a b unspec, exec_dotc s rd a b unspec⟩

/-- Settles O32: the magnitudes that `asum` adds are those of `r_sqrt_mag`, the greatest integers whose
squares the sums of squares hold. -/
theorem sumsAreExact : Obligations.SumsAreExact := by
  intro s rd a
  have unspec := unspecified_unspecH s.cfg s.freeCount 0
  refine ⟨exec_sum s rd a unspec, ?asum⟩
  obtain ⟨t, ht, result⟩ := exec_asum s rd a unspec
  refine ⟨t, ht, { result with value := fun hrd => ?_ }⟩
  obtain ⟨hreal, hsum⟩ := result.value hrd
  exact ⟨hreal, fun k => rSqrtMag (s.lane a k), fun k => rSqrtMag_spec (s.lane a k), hsum⟩

/-- Settles O33, by what the scan over the lanes finds. -/
theorem indexOfLargestMagnitude : Obligations.IndexOfLargestMagnitude := by
  intro s rd a hlanes
  obtain ⟨hj, hmax, hfirst⟩ := argmax_spec (s.lane a) hlanes
  simp only [← sqMag_eq_mag2] at hmax hfirst
  refine ⟨_, rfl, .of_finishS _ _ _ _ fun _ =>
    ⟨argmax (s.lanes a), hj, hmax, hfirst, fun hq => ?q32_32, fun hraw => ?raw⟩⟩
  case q32_32 => rw [hq, numberHalf_q32_32]
  case raw => rw [hraw, numberHalf_raw]

/-- Settles O53: one wrap of the exact sum is a wrap at every lane. -/
theorem sumEqualsChainOfAdds : Obligations.SumEqualsChainOfAdds := by
  intro s rd a hwrap hrd
  obtain ⟨t, ht, result⟩ := exec_sum (ovf := fun n h => h = wrap64 n) s rd a
    (unspecH_of_wrap hwrap s.freeCount 0)
  rw [s.foldl_add_lanes a Cplx.re, s.foldl_add_lanes a Cplx.im]
  exact ⟨t, ht, result.value hrd⟩

end Sys2Proof.Machine

/-! The vector-scalar broadcast instructions of mapping 11 (44 R150 to R154): the operation of 40 on each
lane of the source vector and the one scalar, under the overflow handler that the instruction's rule
names. -/

namespace Sys2Proof.Machine

/-! ### Each instruction's result -/

theorem exec_vsadd {ovf : Int → Half → Prop} (s : State) (rd a : VReg) (b : SReg)
    (H : ∀ p n, ovf n (satH p n)) :
    ∃ t, exec (.vsadd rd a b) s = .next t
      ∧ VectorResult s t rd fun k => IsSum ovf (s.lane a k) (s.readS b) :=
  ⟨_, rfl, .of_finishV _ _ _ _ fun _ _ _ => isSum_cAdd _ _ H⟩

/-- The scalar is subtracted from the lane (44 R152). -/
theorem exec_vssub {ovf : Int → Half → Prop} (s : State) (rd a : VReg) (b : SReg)
    (H : ∀ p n, ovf n (satH p n)) :
    ∃ t, exec (.vssub rd a b) s = .next t
      ∧ VectorResult s t rd fun k => IsDifference ovf (s.lane a k) (s.readS b) :=
  ⟨_, rfl, .of_finishV _ _ _ _ fun _ _ _ => isDifference_cSub _ _ H⟩

/-- Every lane has the same divisor and its own free value (44 R154). -/
theorem exec_vsdiv {ovf : Int → Half → Prop} (s : State) (rd a : VReg) (b : SReg)
    (H : ∀ lane p n, ovf n (unspecH s.cfg s.freeCount lane p n)) :
    ∃ t, exec (.vsdiv rd a b) s = .next t
      ∧ VectorResult s t rd fun k => IsQuotient s.cfg ovf (s.lane a k) (s.readS b) :=
  ⟨_, rfl, (VectorResult.of_finishV _ _ _ _ fun _ k _ => isQuotient_cDiv _ _ _ _ _ (H k)).drawn⟩

/-! ### The statements -/

/-- Settles O34: saturation clamps each half of each lane by itself. -/
theorem broadcastAddAndSubtractSaturate : Obligations.BroadcastAddAndSubtractSaturate :=
  fun s rd a b => ⟨exec_vsadd s rd a b clamps_satH, exec_vssub s rd a b clamps_satH⟩

/-- Settles O35: `ovf_trunc` answers what it may for every product, and `ovf_unspec` for every quotient
by a scalar that is not zero. -/
theorem broadcastMultiplyAndDivide : Obligations.BroadcastMultiplyAndDivide := fun s rd a b =>
  ⟨exec_vsmul s rd a b fun _ => truncates_ovfTrunc s.cfg,
    exec_vsdiv s rd a b (unspecified_unspecH s.cfg s.freeCount)⟩

end Sys2Proof.Machine

/-! The immediate instructions of the BASE profile (45 R160 to R165): the operation of 40 on the register
and the immediate, which Q32.32 holds exactly once it is widened. -/

namespace Sys2Proof.Machine

/-! ### The widened immediate (30 R71, 45 R160) -/

/-- A half has one integer, so the integers of the two halves fix the immediate's complex value. -/
theorem eq_cImm_iff {c : Cplx} {re im : Imm45} : c = cImm re im ↔
    c.re.toInt = re.toInt * 2 ^ 9 ∧ c.im.toInt = im.toInt * 2 ^ 9 := by
  obtain ⟨x, y⟩ := c
  rw [← widenImm_toInt re, ← widenImm_toInt im, BitVec.toInt_inj, BitVec.toInt_inj]
  exact Iff.of_eq (Cplx.mk.injEq ..)

/-! ### The statements -/

/-- Settles O36: an immediate times `2^9` has at most 54 bits, so `wrap64` loses none. -/
theorem loadImmediateWidensExactly : Obligations.LoadImmediateWidensExactly := fun _ _ _ _ =>
  ⟨_, rfl, .of_finishS _ _ _ _ fun _ => eq_cImm_iff.1 rfl⟩

/-- Settles O37: the operand is the immediate that the machine widens, `satH` clamps each half by itself,
and `ovf_unspec` answers what it may for every quotient whose divisor is not zero. -/
theorem immediateArithmetic : Obligations.ImmediateArithmetic := by
  intro s rd a re im c hre him
  obtain rfl := eq_cImm_iff.2 ⟨hre, him⟩
  refine ⟨?caddI, ?csubI, ?cmulI, ?cdivI⟩
  case caddI => exact ⟨_, rfl, .of_finishS _ _ _ _ fun _ => isSum_cAdd _ _ clamps_satH⟩
  case csubI => exact ⟨_, rfl, .of_finishS _ _ _ _ fun _ => isDifference_cSub _ _ clamps_satH⟩
  case cmulI => exact ⟨_, rfl, .of_finishS _ _ _ _ fun _ => isProduct_cMul _ _ _ _ _ clamps_satH⟩
  case cdivI =>
    have unspec := unspecified_unspecH s.cfg s.freeCount 0
    exact ⟨_, rfl, (ScalarResult.of_finishS _ _ _ _ fun _ => isQuotient_cDiv _ _ _ _ _ unspec).drawn⟩

end Sys2Proof.Machine

/-! The conditional jump (46_jtype_jump R170 to R174): the two ends of `jrel`, and the hang of a taken jump
to itself (70_reset_and_hazards R267). -/

namespace Sys2Proof.Machine

/-! ### Moving `pc` -/

/-- Moving `pc` changes nothing else; `advance` is the move by one. -/
theorem State.jump_frame (s : State) (off : Int) :
    SameScalars s (s.jump off) ∧ SameVectors s (s.jump off) ∧ SameStorage s (s.jump off)
      ∧ SameRun s (s.jump off) :=
  ⟨State.readS_congr s _ rfl, State.lane_congr s _ rfl, State.byte_congr s _ rfl rfl, rfl, rfl, rfl⟩

@[simp] theorem State.jump_zero (s : State) : s.jump 0 = s := by
  simp only [State.jump, Int.add_zero]

/-! ### The two ends of `jrel` (46 R171) -/

/-- A complex value is zero when both its halves are (00_scope R14). -/
theorem eq_zero_iff_halves (z : Cplx) : z = Cplx.zero ↔ z.re = 0#64 ∧ z.im = 0#64 :=
  Iff.of_eq (Cplx.mk.injEq ..)

/-- The predicate is "nonzero" of the whole complex value (D18). -/
theorem predicateTrue_iff (z : Cplx) : predicateTrue z = true ↔ z ≠ Cplx.zero := decide_eq_true_iff

theorem exec_jrel_taken {s : State} (off : BitVec 33) (h : s.readS 1#3 ≠ Cplx.zero) :
    exec (.jrel off) s = .next (s.jump off.toInt) :=
  congrArg Host.Outcome.next (if_pos ((predicateTrue_iff _).2 h))

theorem exec_jrel_notTaken {s : State} (off : BitVec 33) (h : s.readS 1#3 = Cplx.zero) :
    exec (.jrel off) s = .next s.advance :=
  congrArg Host.Outcome.next (if_neg fun htaken => (predicateTrue_iff _).1 htaken h)

/-! ### A step back to the same state (70 R267) -/

/-- A machine that steps to the state it is in is in that state after any number of steps. -/
theorem run_eq_of_step_eq_self (M : Host.Core) {s : M.State} (h : M.step s = .next s) (n : Nat) :
    M.run n s = .next s := by
  induction n with
  | zero => rfl
  | succ n ih => simp only [Host.Core.run, h, ih]

/-! ### The statements -/

/-- Settles O38, by the two ends of `jrel`: each only moves `pc`. -/
theorem jumpOnNonzeroPredicate : Obligations.JumpOnNonzeroPredicate := by
  intro s off
  by_cases hzero : s.readS 1#3 = Cplx.zero
  case pos =>
    have hhalves := (eq_zero_iff_halves _).1 hzero
    refine ⟨s.advance, exec_jrel_notTaken off hzero, fun hne => ?_, fun _ => rfl, s.jump_frame 1⟩
    exact absurd hhalves (not_and_or.2 hne)
  case neg =>
    refine ⟨s.jump off.toInt, exec_jrel_taken off hzero, fun _ => rfl, fun hhalves => ?_,
      s.jump_frame _⟩
    exact absurd ((eq_zero_iff_halves _).2 hhalves) hzero

/-- Settles O55: the step is the taken jump by zero, which leaves the whole state. -/
theorem jumpToItselfHangs : Obligations.JumpToItselfHangs := by
  intro s n hf h0 hpc hd hs1
  have hstep : step s = .next s := by
    rw [step_eq_exec hf h0 hpc hd, exec_jrel_taken 0#33 hs1, BitVec.toInt_zero, State.jump_zero]
  exact run_eq_of_step_eq_self core hstep n

end Sys2Proof.Machine

/-! The matrix-bank loads and stores (47_stype_matrix_bank R180 to R189, 48_secondary_only R223): what each
form does inside its bank, what a load after a store reads, and the bank numbers that name no bank. -/

namespace Sys2Proof

/-! ### A bank number that names no bank (47 R182, R189) -/

/-- Whichever check fails first, with `MBZ_IGNORED` too (log 11), a word that names no bank is no S-type
instruction; a subop with no row is an error already. -/
theorem exists_decodeS_eq_error (c : Config) {w : InstrWord} (h : bankExists (mbidOf w) = false) :
    ∃ e, decodeS c w = .error e := by
  have refused (ok : Bool) (len : BitVec 16) (i : Instr) : ∃ e, bankChecked c w ok len i = .error e := by
    unfold bankChecked
    rw [h]
    split
    · exact ⟨_, rfl⟩
    · exact ⟨.noSuchBank, rfl⟩
  unfold decodeS
  split
  case h_5 => exact ⟨.reservedSubop, rfl⟩
  all_goals exact refused ..

end Sys2Proof

namespace Sys2Proof.Machine

/-! ### Lanes and elements -/

/-- The lanes that the length transfers: all of them for `len16 = 0`, else those below `len16`
(47 R183, 48 R223). -/
theorem lt_transferLength_iff {c : Config} {len : BitVec 16} {k : Nat} (hk : k < c.vlen) :
    k < transferLength c len ↔ (len ≠ 0#16 → k < len.toNat) := by
  unfold transferLength
  split <;> simp [*]

/-- What holds of a lane's element holds of the element that the access direction names (47 R183). -/
theorem State.bankLane_iff (s : State) (b : Fin 4) (rc : Access) (idx k : Nat) (P : Cplx → Prop) :
    P (s.bankLane b rc idx k) ↔
      (rc = .row → P (s.bankRead b idx k)) ∧ (rc = .column → P (s.bankRead b k idx)) := by
  cases rc <;> simp [State.bankLane, laneCoord]

/-- Where every byte is as before, every element is. -/
theorem State.bankRead_congr {s t : State} (hcfg : t.cfg = s.cfg) (h : SameStorage s t) (b : Fin 4)
    (r c : Nat) : t.bankRead b r c = s.bankRead b r c := by
  rw [State.bankRead, State.bankRead, hcfg, State.read128_congr _ _ _ _ fun _ _ => h _ _]

@[simp] theorem State.bankRead_advance (s : State) (b : Fin 4) (r c : Nat) :
    s.advance.bankRead b r c = s.bankRead b r c := rfl

/-- The destination of a scalar instruction holds its value, unless it is `s0` (10_state R21). -/
theorem State.readS_finishS_self (s : State) (rd : SReg) (v : Cplx) :
    (s.finishS rd v).readS rd = if rd = 0#3 then Cplx.zero else v := by
  obtain ⟨hread, -, -⟩ := s.finishS_spec rd v
  rw [hread]
  split_ifs <;> simp_all

/-! ### The end of a store (47 R185, R187) -/

theorem StoreResult.of_bankWrite (s : State) (b : Fin 4) (r c : Nat) (e : Cplx) :
    StoreResult s (s.bankWrite b r c e).advance (ElementBytes s.cfg b r c) where
  outside _ _ h := (State.byte_write128 ..).trans (if_neg h)
  scalars := State.readS_congr _ _ (by simp)
  vectors := State.lane_congr _ _ (by simp)
  run := ⟨by simp, by simp, by simp⟩
  pc := by simp

theorem StoreResult.of_storeLanes (s : State) (b : Fin 4) (rc : Access) (idx : Nat) (f : Nat → Cplx)
    (n : Nat) :
    StoreResult s (s.storeLanes b rc idx f n).advance fun sp a =>
      ∃ k < n, ElementBytes s.cfg b (laneCoord rc idx k).1 (laneCoord rc idx k).2 sp a where
  outside := s.byte_storeLanes_outside b rc idx f n
  scalars := State.readS_congr _ _ (by simp)
  vectors := State.lane_congr _ _ (by simp)
  run := ⟨by simp, by simp, by simp⟩
  pc := by simp

/-! ### Each instruction inside its bank -/

theorem exec_sstXy_inside {s : State} {mbid : BitVec 4} {x y : BitVec 16} {b : Fin 4} (rd : SReg)
    (hb : mbid.toNat = b) (hx : x.toNat < s.cfg.side) (hy : y.toNat < s.cfg.side) :
    exec (.sstXy rd mbid x y) s = .next (s.bankWrite b y.toNat x.toNat (s.readS rd)).advance := by
  have hin : ¬ (s.cfg.side ≤ y.toNat ∨ s.cfg.side ≤ x.toNat) := by omega
  simp only [exec, execSstXy, bankOf_eq_some mbid b hb, hin, if_false]

/-- The elements of a pattern do not meet, so each holds its own lane after the last write (47 R185). -/
theorem exec_vst_inside {s : State} {mbid : BitVec 4} {idx len : BitVec 16} {b : Fin 4} (rd : VReg)
    (rc : Access) (hb : mbid.toNat = b) (hidx : idx.toNat < s.cfg.side)
    (hlen : len.toNat ≤ s.cfg.vlen) :
    ∃ t, exec (.vst rd mbid rc idx len) s = .next t
      ∧ StoreResult s t (fun sp a => ∃ k < transferLength s.cfg len,
          ElementBytes s.cfg b (laneCoord rc idx.toNat k).1 (laneCoord rc idx.toNat k).2 sp a)
      ∧ ∀ k < transferLength s.cfg len, t.bankLane b rc idx.toNat k = s.lane rd k := by
  simp only [exec, execVst, bankOf_eq_some mbid b hb, hlen.not_gt, hidx.not_ge, if_false]
  exact ⟨_, rfl, .of_storeLanes .., fun k hk =>
    s.bankRead_storeLanes b rc idx.toNat (s.lane rd) _ k hidx (transferLength_le hlen.not_gt) hk⟩

/-- Only a short length draws free values, and those stand in the lanes past it (47 R184, 48 R223). -/
theorem exec_vld_inside {s : State} {mbid : BitVec 4} {idx len : BitVec 16} {b : Fin 4} (rd : VReg)
    (rc : Access) (hb : mbid.toNat = b) (hidx : idx.toNat < s.cfg.side)
    (hlen : len.toNat ≤ s.cfg.vlen) :
    ∃ t, exec (.vld rd mbid rc idx len) s = .next t ∧ VectorResult s t rd fun k z =>
      k < transferLength s.cfg len → z = s.bankLane b rc idx.toNat k := by
  simp only [exec, execVld, bankOf_eq_some mbid b hb, hlen.not_gt, hidx.not_ge, if_false]
  split
  · exact ⟨_, rfl, (VectorResult.of_finishV _ _ _ _ fun _ _ _ hk => if_pos hk).drawn⟩
  · exact ⟨_, rfl, .of_finishV _ _ _ _ fun _ _ _ _ => rfl⟩

/-! ### The statements -/

/-- Settles O39: the lanes below the length hold the elements of the pattern. -/
theorem vectorLoadReadsRowOrColumn : Obligations.VectorLoadReadsRowOrColumn := by
  intro s rd mbid rc idx len b hb hidx hlen
  obtain ⟨t, ht, result⟩ := exec_vld_inside rd rc hb hidx hlen
  refine ⟨t, ht, { result with value := fun hrd k hk hshort => ?_ }⟩
  exact (s.bankLane_iff b rc _ k (t.lane rd k = ·)).1
    (result.value hrd k hk ((lt_transferLength_iff hk).2 hshort))

/-- Settles O40: the lanes below the length stand in the elements of the pattern. -/
theorem vectorStoreWritesRowOrColumn : Obligations.VectorStoreWritesRowOrColumn := by
  intro s rd mbid rc idx len b hb hidx hlen
  obtain ⟨t, ht, result, hstored⟩ := exec_vst_inside rd rc hb hidx hlen
  refine ⟨t, ht, result, fun k hk hshort => ?_⟩
  exact (t.bankLane_iff b rc _ k (· = s.lane rd k)).1
    (hstored k ((lt_transferLength_iff hk).2 hshort))

/-- Settles O42: the element's place reads as the 128 bits of the stored value. -/
theorem scalarStoreWritesElementImage : Obligations.ScalarStoreWritesElementImage := by
  intro s rd mbid x y b hb hx hy
  refine ⟨_, exec_sstXy_inside rd hb hx hy, .of_bankWrite .., ?_⟩
  exact State.bytes_of_read128_eq_cplxBits (s.read128_loadElem b y.toNat x.toNat (s.readS rd))

/-- Settles O44: decoding, which checks the bank number, comes before the coordinates are looked at. -/
theorem bankNumberAboveThreeIsIllegal : Obligations.BankNumberAboveThreeIsIllegal := by
  intro s hf h0 hpc hop _ hmbid
  have hbank : bankExists (mbidOf s.fetchWord) = false := by simpa [bankExists] using hmbid
  obtain ⟨e, he⟩ := exists_decodeS_eq_error s.cfg hbank
  have hopcode : (opcodeOf s.fetchWord).toNat = 4 := congrArg BitVec.toNat hop
  exact step_eq_raise_illegalInstruction hf h0 hpc ((decode_eq_decodeS hopcode s.cfg).trans he)

/-- Settles O45: the written element reads back, and elements of other coordinates or banks have other
bytes. -/
theorem storeThenLoadScalar : Obligations.StoreThenLoadScalar := by
  intro s rs rd mbid x y b hb hx hy
  refine ⟨_, _, exec_sstXy_inside rs hb hx hy, exec_sldXy_inside rd hb (by simpa) (by simpa), ?_,
    fun b' r c hc hne => ?_⟩
  · rw [State.readS_finishS_self, State.bankRead_advance, State.bankRead_bankWrite_same]
  · rw [State.bankRead_advance, State.bankRead_bankWrite_other s b b' _ _ r c _ hx hc hne]

/-- Settles O46: the vector load gives back each lane from its element, and leaves every element for the
scalar load. -/
theorem storeThenLoadVector : Obligations.StoreThenLoadVector := by
  intro s rs rd sd mbid rc idx b hb hidx hrd hsd
  obtain ⟨t, ht, stored, hstored⟩ := exec_vst_inside (len := 0#16) rs rc hb hidx (Nat.zero_le _)
  obtain ⟨hcfg, -, -⟩ := stored.run
  rw [← hcfg] at hidx
  obtain ⟨u, hu, loaded⟩ := exec_vld_inside (len := 0#16) rd rc hb hidx (Nat.zero_le _)
  obtain ⟨hcfg', -, -⟩ := loaded.run
  have hlane : ∀ k < s.cfg.vlen, u.lane rd k = t.bankLane b rc idx.toNat k := fun k hk =>
    have hk : k < t.cfg.vlen := by rwa [hcfg]
    loaded.value hrd k hk hk
  refine ⟨t, u, ht, hu, fun k hk => (hlane k hk).trans (hstored k hk), fun k hk hside => ?_⟩
  refine ⟨u.finishS sd (u.bankLane b rc idx.toNat k.toNat), ?scalarLoad, ?value⟩
  case scalarLoad =>
    rw [← hcfg, ← hcfg'] at hside
    rw [← hcfg'] at hidx
    cases rc
    case row => exact exec_sldXy_inside sd hb hside hidx
    case column => exact exec_sldXy_inside sd hb hidx hside
  case value =>
    rw [State.readS_finishS_self, if_neg hsd, hlane _ hk]
    exact State.bankRead_congr hcfg' loaded.storage ..

/-- Settles O41: inside the bank the element is the value the register gets. -/
theorem scalarLoadReadsElement : Obligations.ScalarLoadReadsElement :=
  fun s rd _ _ _ _ hb hx hy => ⟨_, exec_sldXy_inside rd hb hx hy, .of_finishS s rd _ _ fun _ => rfl⟩

end Sys2Proof.Machine

/-! The instructions that only the profile `D1EXT` has (48_secondary_only R201 to R212): the copies by
magnitude, the comparisons, the fused multiply-accumulate, the load of one lane and the scaling. `exec`
runs them in every build; the profile is a matter of decoding (log 8). -/

namespace Sys2Proof.Machine

/-! ### Comparisons of magnitudes and of real halves (48 R201 to R205, R221) -/

theorem maxAbs_eq (a b : Cplx) : maxAbs a b = if sqMag a < sqMag b then b else a := by
  simp only [maxAbs, sqMag_eq_mag2, gt_iff_lt]

theorem minAbs_eq (a b : Cplx) : minAbs a b = if sqMag b < sqMag a then b else a := by
  simp only [minAbs, sqMag_eq_mag2]

/-- A comparison writes the number one of the build's format where it holds, else zero (48 R221). -/
theorem truthValue_decide (c : Config) (p : Prop) [Decidable p] :
    truthValue c (decide p) = ⟨if p then numberHalf c.boolFormat 1 else 0#64, 0#64⟩ := by
  simp only [truthValue, decide_eq_true_eq]

/-! ### The fused multiply-accumulate and the scaling (48 R206, R212) -/

/-- The old lane joins the exact product before the one rounding (48 R206, D17). -/
theorem exec_vmac {ovf : Int → Half → Prop} (s : State) (rd a b : VReg)
    (H : ∀ lane p n, ovf n (unspecH s.cfg s.freeCount lane p n)) :
    ∃ t, exec (.vmac rd a b) s = .next t ∧ VectorResult s t rd fun k => IsRounded s.cfg ovf
      (qext (s.lane rd k).re * 2 ^ 32 + mulRe (s.lane a k) (s.lane b k))
      (qext (s.lane rd k).im * 2 ^ 32 + mulIm (s.lane a k) (s.lane b k)) :=
  ⟨_, rfl, (VectorResult.of_finishV _ _ _ _ fun _ k _ => isRounded_shr32 _ _ (H k)).drawn⟩

/-- A product with a real number is the product of each half with it (48 R212). -/
theorem isProduct_iff_of_im_eq_zero {c : Config} {ovf : Int → Half → Prop} {a b z : Cplx}
    (hb : b.im.toInt = 0) : IsProduct c ovf a b z ↔
      IsRounded c ovf (a.re.toInt * b.re.toInt) (a.im.toInt * b.re.toInt) z := by
  simp only [IsProduct, hb, mul_zero, sub_zero, zero_add]

/-! ### The load of one lane (48 R209) -/

/-- A lane index at or past `VLEN` makes the instruction illegal (D31). -/
theorem exec_vsload_outside {s : State} {i : BitVec 16} (rd : VReg) (b : SReg)
    (hi : s.cfg.vlen ≤ i.toNat) :
    exec (.vsload rd b i) s = .next (s.raiseIllegal (.vsload rd b i)) :=
  if_pos hi

theorem exec_vsload_inside {s : State} {i : BitVec 16} (rd : VReg) (b : SReg)
    (hi : i.toNat < s.cfg.vlen) : exec (.vsload rd b i) s
      = .next (s.finishV rd fun k => if k = i.toNat then s.readS b else s.lane rd k) :=
  if_neg hi.not_ge

/-! ### The statements -/

/-- Settles O49: `ovf_unspec` answers what it may for each half, rounded once after the exact sum. -/
theorem fusedMultiplyAccumulate : Obligations.FusedMultiplyAccumulate := fun s rd a b =>
  exec_vmac s rd a b (unspecified_unspecH s.cfg s.freeCount)

/-- Settles O51: the scaling is the product with the widened immediate, whose imaginary half is zero. -/
theorem scaleByRealImmediate : Obligations.ScaleByRealImmediate := by
  intro s rd a re
  have hreal : (cImm re 0#45).im.toInt = 0 := rfl
  refine ⟨_, rfl, (ScalarResult.of_finishS _ _ _ _ fun _ => ?_).drawn⟩
  rw [← widenImm_toInt re]
  exact (isProduct_iff_of_im_eq_zero hreal).1
    (isProduct_cMul _ _ _ _ _ (unspecified_unspecH s.cfg s.freeCount 0))

/-- Settles O47: the machine compares the exact squared magnitudes, of the register or of the immediate
it widens. -/
theorem largerAndSmallerMagnitude : Obligations.LargerAndSmallerMagnitude := by
  intro s rd a b re im c hre him
  obtain rfl := eq_cImm_iff.2 ⟨hre, him⟩
  refine ⟨?cmaxabs, ?cminabs, ?cmaxabsI, ?cminabsI⟩
  case cmaxabs => exact ⟨_, rfl, .of_finishS _ _ _ _ fun _ => maxAbs_eq _ _⟩
  case cminabs => exact ⟨_, rfl, .of_finishS _ _ _ _ fun _ => minAbs_eq _ _⟩
  case cmaxabsI => exact ⟨_, rfl, .of_finishS _ _ _ _ fun _ => maxAbs_eq _ _⟩
  case cminabsI => exact ⟨_, rfl, .of_finishS _ _ _ _ fun _ => minAbs_eq _ _⟩

/-- Settles O48: each comparison writes the truth value of its order, whose one is that of the build's
format. -/
theorem realComparisons : Obligations.RealComparisons := by
  intro s rd a b one x u
  have hone : numberHalf s.cfg.boolFormat 1 = one := by
    unfold one
    cases s.cfg.boolFormat <;> rfl
  rw [← hone]
  refine ⟨?cmplt, ?cmpgt, ?cmple⟩
  case cmplt => exact ⟨_, rfl, .of_finishS _ _ _ _ fun _ => truthValue_decide _ (x < u)⟩
  case cmpgt => exact ⟨_, rfl, .of_finishS _ _ _ _ fun _ => truthValue_decide _ (u < x)⟩
  case cmple => exact ⟨_, rfl, .of_finishS _ _ _ _ fun _ => truthValue_decide _ (x ≤ u)⟩

/-- Settles O50, by the two sides of the check of the lane index. -/
theorem loadOneLane : Obligations.LoadOneLane := fun _ rd b _ =>
  ⟨fun hi => ⟨_, exec_vsload_inside rd b hi, .of_finishV _ _ _ _ fun _ _ _ => rfl⟩,
    exec_vsload_outside rd b⟩

end Sys2Proof.Machine

/-! The exceptions (60_exceptions R230 to R238): what raises each, and that taking one changes the fault
record alone. -/

namespace Sys2Proof.Machine

/-! ### Coordinates outside a bank (60 R231) -/

theorem exec_sldXy_outside {s : State} {mbid : BitVec 4} {x y : BitVec 16} (rd : SReg)
    (hbank : mbid.toNat < 4) (hout : s.cfg.side ≤ y.toNat ∨ s.cfg.side ≤ x.toNat) :
    exec (.sldXy rd mbid x y) s = .next (s.raise (.bankBoundsTrap mbid y x)) := by
  simp only [exec, execSldXy, bankOf_eq_some mbid ⟨_, hbank⟩ rfl, hout, if_true]

theorem exec_sstXy_outside {s : State} {mbid : BitVec 4} {x y : BitVec 16} (rd : SReg)
    (hbank : mbid.toNat < 4) (hout : s.cfg.side ≤ y.toNat ∨ s.cfg.side ≤ x.toNat) :
    exec (.sstXy rd mbid x y) s = .next (s.raise (.bankBoundsTrap mbid y x)) := by
  simp only [exec, execSstXy, bankOf_eq_some mbid ⟨_, hbank⟩ rfl, hout, if_true]

theorem exec_vld_outside {s : State} {mbid : BitVec 4} {idx len : BitVec 16} (rd : VReg) (rc : Access)
    (hbank : mbid.toNat < 4) (hout : s.cfg.side ≤ idx.toNat) (hlen : len.toNat ≤ s.cfg.vlen) :
    exec (.vld rd mbid rc idx len) s = .next (s.raise (vectorTrap mbid rc idx)) := by
  simp only [exec, execVld, bankOf_eq_some mbid ⟨_, hbank⟩ rfl, hlen.not_gt, hout, if_false, if_true]

theorem exec_vst_outside {s : State} {mbid : BitVec 4} {idx len : BitVec 16} (rd : VReg) (rc : Access)
    (hbank : mbid.toNat < 4) (hout : s.cfg.side ≤ idx.toNat) (hlen : len.toNat ≤ s.cfg.vlen) :
    exec (.vst rd mbid rc idx len) s = .next (s.raise (vectorTrap mbid rc idx)) := by
  simp only [exec, execVst, bankOf_eq_some mbid ⟨_, hbank⟩ rfl, hlen.not_gt, hout, if_false, if_true]

/-! ### What an instruction of the build can raise -/

/-- The instructions that trap in the build `c`, and the trap each of them takes (60 R231): a coordinate
is at or past `SIDE`. -/
inductive BoundsTrap (c : Config) : Instr → Exception → Prop where
  | sldXy (rd : SReg) (mbid : BitVec 4) (x y : BitVec 16)
      (hout : c.side ≤ y.toNat ∨ c.side ≤ x.toNat) :
      BoundsTrap c (.sldXy rd mbid x y) (.bankBoundsTrap mbid y x)
  | sstXy (rd : SReg) (mbid : BitVec 4) (x y : BitVec 16)
      (hout : c.side ≤ y.toNat ∨ c.side ≤ x.toNat) :
      BoundsTrap c (.sstXy rd mbid x y) (.bankBoundsTrap mbid y x)
  | vld (rd : VReg) (mbid : BitVec 4) (rc : Access) (idx len : BitVec 16)
      (hout : c.side ≤ idx.toNat) : BoundsTrap c (.vld rd mbid rc idx len) (vectorTrap mbid rc idx)
  | vst (rd : VReg) (mbid : BitVec 4) (rc : Access) (idx len : BitVec 16)
      (hout : c.side ≤ idx.toNat) : BoundsTrap c (.vst rd mbid rc idx len) (vectorTrap mbid rc idx)

theorem lt_four_of_bankExists {mbid : BitVec 4} (h : bankExists mbid = true) : mbid.toNat < 4 :=
  of_decide_eq_true h

/-- What the checks of a vector access of the build say of its operands (47 R182, 48 R223). -/
theorem bank_and_length_of_allowed {c : Config} {mbid : BitVec 4} {len : BitVec 16}
    (h : (bankExists mbid && lengthAllowed c len) = true) : mbid.toNat < 4 ∧ len.toNat ≤ c.vlen := by
  obtain ⟨hbank, hallowed⟩ := Bool.and_eq_true_iff.1 h
  obtain ⟨-, hlen⟩ := Bool.and_eq_true_iff.1 hallowed
  exact ⟨lt_four_of_bankExists hbank, of_decide_eq_true hlen⟩

/-- An instruction of the build keeps the fault record, or takes its trap (60 R231; 40 R108). The checks
that `exec` makes on the bank number, the length and the lane do not fail: decoding has made them. -/
theorem exec_fault_eq_or_boundsTrap {i : Instr} {s : State} (hwf : wellFormed s.cfg i = true) :
    ∃ t, exec i s = .next t
      ∧ (t.fault = s.fault ∨ ∃ e, BoundsTrap s.cfg i e ∧ t = s.raise e) := by
  cases i with
  | sldXy rd mbid x y =>
    have hbank := lt_four_of_bankExists hwf
    by_cases hout : s.cfg.side ≤ y.toNat ∨ s.cfg.side ≤ x.toNat
    · exact ⟨_, exec_sldXy_outside rd hbank hout, .inr ⟨_, .sldXy rd mbid x y hout, rfl⟩⟩
    · obtain ⟨hy, hx⟩ := not_or.1 hout
      exact ⟨_, exec_sldXy_inside rd (b := ⟨_, hbank⟩) rfl (not_le.1 hx) (not_le.1 hy),
        .inl (by simp)⟩
  | sstXy rd mbid x y =>
    have hbank := lt_four_of_bankExists hwf
    by_cases hout : s.cfg.side ≤ y.toNat ∨ s.cfg.side ≤ x.toNat
    · exact ⟨_, exec_sstXy_outside rd hbank hout, .inr ⟨_, .sstXy rd mbid x y hout, rfl⟩⟩
    · obtain ⟨hy, hx⟩ := not_or.1 hout
      exact ⟨_, exec_sstXy_inside rd (b := ⟨_, hbank⟩) rfl (not_le.1 hx) (not_le.1 hy),
        .inl (by simp)⟩
  | vld rd mbid rc idx len =>
    obtain ⟨hbank, hlen⟩ := bank_and_length_of_allowed hwf
    by_cases hout : s.cfg.side ≤ idx.toNat
    · exact ⟨_, exec_vld_outside rd rc hbank hout hlen, .inr ⟨_, .vld rd mbid rc idx len hout, rfl⟩⟩
    · obtain ⟨t, ht, result⟩ := exec_vld_inside rd rc (b := ⟨_, hbank⟩) rfl (not_le.1 hout) hlen
      obtain ⟨-, -, hfault⟩ := result.run
      exact ⟨t, ht, .inl hfault⟩
  | vst rd mbid rc idx len =>
    obtain ⟨hbank, hlen⟩ := bank_and_length_of_allowed hwf
    by_cases hout : s.cfg.side ≤ idx.toNat
    · exact ⟨_, exec_vst_outside rd rc hbank hout hlen, .inr ⟨_, .vst rd mbid rc idx len hout, rfl⟩⟩
    · obtain ⟨t, ht, result, -⟩ := exec_vst_inside rd rc (b := ⟨_, hbank⟩) rfl (not_le.1 hout) hlen
      obtain ⟨-, -, hfault⟩ := result.run
      exact ⟨t, ht, .inl hfault⟩
  | vsload rd b lane =>
    obtain ⟨-, hlane⟩ := Bool.and_eq_true_iff.1 hwf
    exact ⟨_, exec_vsload_inside rd b (of_decide_eq_true hlane), .inl (by simp)⟩
  | _ =>
    obtain ⟨t, ht, effect⟩ := exec_effect _ s
    exact ⟨t, ht, .inl (effect.fault_eq rfl)⟩

/-! ### Taking an exception (60 R236) -/

/-- An effect that records a fault is an exception, and raising one writes nothing but the record. -/
theorem ExecEffect.eq_of_fault_ne_none {i : Instr} {s t : State} (h : ExecEffect i s t)
    (hf : s.fault = none) (ht : t.fault ≠ none) : t = { s with fault := t.fault } := by
  cases h with
  | trap | illegal => rfl
  | scalar | scalarDrawn | vector | vectorDrawn | jump | notTaken | storeLanes | storeElem =>
    simp [hf] at ht

/-! ### The statements -/

/-- Settles O14, by the effects an instruction can have and by what a step does. -/
theorem exceptionChangesOnlyFaultRecord : Obligations.ExceptionChangesOnlyFaultRecord := by
  refine ⟨?exec, ?step, ?faulted⟩
  case exec => exact fun _ _ _ hf h ht => (execEffect_of_exec h).eq_of_fault_ne_none hf ht
  case step =>
    intro s t h ht
    obtain ⟨hf, ⟨-, rfl⟩ | ⟨-, ⟨-, rfl⟩ | ⟨i, -, hi⟩⟩⟩ := step_cases h
    · rfl
    · rfl
    · exact (execEffect_of_exec hi).eq_of_fault_ne_none hf ht
  case faulted =>
    intro s t hf h
    obtain ⟨hnone, -⟩ := step_cases h
    exact hf hnone

/-- Settles O57: the instruction that a step runs is one of the build, so it keeps the record or takes
its trap. -/
theorem onlyThreeCausesRaise : Obligations.OnlyThreeCausesRaise := by
  intro s t h ht
  obtain ⟨hf, ⟨hout, rfl⟩ | ⟨⟨h0, hpc⟩, ⟨hd, rfl⟩ | ⟨i, hd, hi⟩⟩⟩ := step_cases h
  · exact .inl ⟨hout, rfl⟩
  · exact .inr ⟨h0, hpc, .inl ⟨hd, rfl⟩⟩
  · refine .inr ⟨h0, hpc, .inr ?_⟩
    obtain ⟨t', ht', effect⟩ := exec_fault_eq_or_boundsTrap (wellFormed_of_decode hd)
    rw [hi] at ht'
    cases ht'
    obtain hkept | ⟨e, htrap, rfl⟩ := effect
    · exact absurd (hkept.trans hf) ht
    · cases htrap with
      | sldXy rd mbid x y hout => exact .inl ⟨rd, mbid, x, y, .inl hd, hout, rfl⟩
      | sstXy rd mbid x y hout => exact .inl ⟨rd, mbid, x, y, .inr hd, hout, rfl⟩
      | vld rd mbid rc idx len hout => exact .inr ⟨rd, mbid, rc, idx, len, .inl hd, hout, rfl⟩
      | vst rd mbid rc idx len hout => exact .inr ⟨rd, mbid, rc, idx, len, .inr hd, hout, rfl⟩

/-- Settles O8: a `pc` outside the program is not at its end either, so the fetch check answers. -/
theorem stepRaisesFetchFault : Obligations.StepRaisesFetchFault := by
  intro s hf hout
  have hend : ¬ s.pc = s.progLen := by omega
  simp only [step, hf, hend, hout, if_false, if_true, State.raise]

/-- Settles O9: a step that answers a next state found no fault and a `pc` other than `PROG_LEN`. -/
theorem noStepAfterFaultOrEnd : Obligations.NoStepAfterFaultOrEnd := by
  intro s t hstop h
  obtain ⟨hf, hwhere⟩ := step_cases h
  have hend : s.pc ≠ s.progLen := by omega
  exact hstop.elim (fun hfault => hfault hf) hend

/-- Settles O43: in each direction of access the trap records the coordinates that were checked. -/
theorem outOfBoundsCoordinatesTrap : Obligations.OutOfBoundsCoordinatesTrap := by
  intro s rd mbid hbank
  refine ⟨fun x y hout => ?scalar, fun idx len hout hlen => ?vector⟩
  case scalar => exact ⟨exec_sldXy_outside rd hbank hout, exec_sstXy_outside rd hbank hout⟩
  case vector =>
    have hvld (rc : Access) := exec_vld_outside rd rc hbank hout hlen
    have hvst (rc : Access) := exec_vst_outside rd rc hbank hout hlen
    exact ⟨hvld .row, hvld .column, hvst .row, hvst .column⟩

end Sys2Proof.Machine

/-! One step of a program and the state after reset (70_reset_and_hazards R260 to R264, 10_state R35). -/

namespace Sys2Proof.Machine

/-- Settles O6, by what a step does inside the program. -/
theorem stepRunsDecodedInstruction : Obligations.StepRunsDecodedInstruction :=
  fun _ _ hf h0 hpc hd => step_eq_exec hf h0 hpc hd

/-- Settles O10: `s0` and `v0` read as zero in every state, and a reset writes no storage. -/
theorem resetState : Obligations.ResetState :=
  ⟨⟨rfl, rfl, State.readS_zero _, State.lane_zero _⟩, fun s =>
    ⟨rfl, rfl, State.readS_zero _, State.lane_zero _, rfl, rfl, State.byte_congr s _ rfl rfl⟩⟩

end Sys2Proof.Machine
